-- ==== Sys2Proof/Word.lean ====
section
/-! DEFINITION. The word types of the block: a byte, a device address, a Q8.8 value. -/

namespace Sys2Proof

/-- A byte: 8 bits, numbered from 0 (00_scope.md R7, 30_encoding.md R60). -/
abbrev Byte := BitVec 8

/-- A device address (ROM code): 64 bits, byte 0 in bits 7:0 (30_encoding.md R61). -/
abbrev Address := BitVec 64

/-- A 16-bit value: a raw temperature or a Q8.8 temperature (30_encoding.md R65). -/
abbrev Word16 := BitVec 16

end Sys2Proof
end

