-- ==== Sys2Proof/Config.lean ====
section
/-! DEFINITION. What an implementation fixes (00_scope.md R6) and the free values the spec leaves open
(93_implementation_defined.md U1, U2). -/

namespace Sys2Proof

/-- The implementation parameters of 00_scope.md R6. A machine carries one value of this type in its state
(`State.cfg`) and no step changes it, so a statement about every state holds for every value of every parameter. -/
structure Params where
  /-- `FAMILY_A`, the legacy low-resolution family. -/
  familyA : Byte
  /-- `FAMILY_B`, the first programmable-resolution family. -/
  familyB : Byte
  /-- `FAMILY_C`, the second programmable-resolution family. -/
  familyC : Byte
  /-- `RECALL_MAX_POLLS`, the ceiling of the EEPROM-recall poll. -/
  recallMaxPolls : Nat
  /-- `T_PRECHECK`, in microseconds, as all that follow. -/
  tPrecheck : Nat
  tRstl : Nat
  tMsp : Nat
  tRsth : Nat
  tW1l : Nat
  tRdv : Nat
  tW1rec : Nat
  tW0l : Nat
  tW0rec : Nat
  tCopySettle : Nat
  tRecallPoll : Nat
  deriving DecidableEq, Repr

/-- What 00_scope.md R6 asks of the parameters: three pairwise distinct family codes, and at least one poll. -/
abbrev Params.Ok (p : Params) : Prop :=
  p.familyA ≠ p.familyB ∧ p.familyA ≠ p.familyC ∧ p.familyB ≠ p.familyC ∧ 1 ≤ p.recallMaxPolls

/-- The set `PROG_FAMILIES` of 00_scope.md R6. -/
abbrev Params.Prog (p : Params) (fam : Byte) : Prop := fam = p.familyB ∨ fam = p.familyC

/-- The family codes the decode accepts (30_encoding.md R70 item 7). -/
abbrev Params.Known (p : Params) (fam : Byte) : Prop := fam = p.familyA ∨ p.Prog fam

/-- The answer of the environment to the n-th free line sample: a free draw (20_memory.md R32,
93_implementation_defined.md U1). No value of it can be proved. -/
opaque Config.freeSample (n : Nat) : Bool

/-- The n-th free value of a given width: a result field of an operation that did not return `OK`
(10_state.md R23, U2), or `CS_SAVED` after a block reset (R26). No value of it can be proved. -/
opaque Config.freeBits (width n : Nat) : BitVec width

/-- `RECALL_MAX_POLLS - 1`: OPEN in 00_scope.md R6, where the bound itself is an integer of at least 1. -/
opaque Config.recallExtraPolls : Nat

/-- `T_RECALL_POLL`: OPEN in 00_scope.md R6. -/
opaque Config.recallPollDelay : Nat

/-- The parameters of the machine at reset: the defaults that 00_scope.md R6 names, and the opaque constants
above for the two OPEN ones. Log entry 7. -/
def Params.default : Params where
  familyA := 0x10#8
  familyB := 0x28#8
  familyC := 0x22#8
  recallMaxPolls := Config.recallExtraPolls + 1
  tPrecheck := 250
  tRstl := 480
  tMsp := 70
  tRsth := 410
  tW1l := 6
  tRdv := 9
  tW1rec := 55
  tW0l := 60
  tW0rec := 10
  tCopySettle := 10000
  tRecallPoll := Config.recallPollDelay

end Sys2Proof
end

