-- ==== Sys2Proof/Syntax.lean ====
section
/-! DEFINITION. The instructions: one constructor for every row of spec/opcode_table.json, and the operand forms
they take. -/

namespace Sys2Proof

/-- A scratchpad, `sp[0]` to `sp[8]`, with the field names of 30_encoding.md R63. `countRemain` and `countPerC`
carry a meaning for family A only. -/
structure Scratchpad where
  tempLsb : Byte
  tempMsb : Byte
  th : Byte
  tl : Byte
  config : Byte
  reserved5 : Byte
  countRemain : Byte
  countPerC : Byte
  crc : Byte
  deriving DecidableEq, Repr

/-- A target: all devices, or one 64-bit address (30_encoding.md R67). -/
inductive Target where
  | broadcast
  | address (a : Address)
  deriving DecidableEq, Repr

/-- The instructions of the block, in the order of spec/opcode_table.json. -/
inductive Instr where
  /-- `BUS_RESET` (R86). -/
  | busReset
  /-- `WRITE_BIT b` (R88). -/
  | writeBit (b : Bool)
  /-- `WRITE_BYTE v` (R91). -/
  | writeByte (v : Byte)
  /-- `ADDRESSED_COMMAND cmd, T` (R93). -/
  | addressedCommand (cmd : Byte) (t : Target)
  /-- `CRC8_UPDATE c, v` (R101). -/
  | crc8Update (c v : Byte)
  /-- `CRC8 [b0 .. bn-1]` (R102). -/
  | crc8 (bytes : List Byte)
  /-- `CRC8_CHECK [b0 .. bn-1]` (R103). -/
  | crc8Check (bytes : List Byte)
  /-- `SEARCH_RESET` (R107). -/
  | searchReset
  /-- `SEARCH` (R109). -/
  | search
  /-- `START_CONVERSION T` (R115). -/
  | startConversion (t : Target)
  /-- `CONVERSION_IN_PROGRESS` (R116). -/
  | conversionInProgress
  /-- `PARASITE_POWERED T` (R117). -/
  | parasitePowered (t : Target)
  /-- `READ_SCRATCHPAD T` (R118). -/
  | readScratchpad (t : Target)
  /-- `WRITE_SCRATCHPAD T, th, tl, cfg` (R119). -/
  | writeScratchpad (t : Target) (th tl cfg : Byte)
  /-- `COPY_SCRATCHPAD T` (R120). -/
  | copyScratchpad (t : Target)
  /-- `RECALL_EEPROM T` (R121). -/
  | recallEeprom (t : Target)
  /-- `DECODE_TEMPERATURE fam, sp` (R126). -/
  | decodeTemperature (fam : Byte) (sp : Scratchpad)
  /-- `READ_TEMPERATURE T` (R127). -/
  | readTemperature (t : Target)
  /-- `READ_BIT`, the pseudo-instruction for `WRITE_BIT 1` (R76). -/
  | readBit
  /-- `READ_BYTE`, the pseudo-instruction for `WRITE_BYTE 0xFF` (R76). -/
  | readByte
  /-- `W_SEARCH`, wire byte 0xF0 (R71). -/
  | wSearch
  /-- `W_MATCH`, wire byte 0x55 (R71). -/
  | wMatch
  /-- `W_SKIP`, wire byte 0xCC (R71). -/
  | wSkip
  /-- `W_CONVERT`, wire byte 0x44 (R71). -/
  | wConvert
  /-- `W_WRITE_SCRATCHPAD`, wire byte 0x4E (R71). -/
  | wWriteScratchpad
  /-- `W_READ_SCRATCHPAD`, wire byte 0xBE (R71). -/
  | wReadScratchpad
  /-- `W_COPY_SCRATCHPAD`, wire byte 0x48 (R71). -/
  | wCopyScratchpad
  /-- `W_RECALL_EEPROM`, wire byte 0xB8 (R71). -/
  | wRecallEeprom
  /-- `W_READ_POWER_SUPPLY`, wire byte 0xB4 (R71). -/
  | wReadPowerSupply
  deriving DecidableEq, Repr

/-- The words of an instruction, in one of the two layers of 30_encoding.md: a host request (a byte string,
R66), or a byte of the wire layer (R71). A wire byte is not a host request: as an op code it would be unassigned
(R70). Log entry 3. -/
inductive Frame where
  | request (bytes : List Byte)
  | wire (byte : Byte)
  deriving DecidableEq, Repr

end Sys2Proof
end

