-- ==== Sys2Proof/Decode.lean ====
section
/-! DEFINITION. The decoder of both layers of 30_encoding.md, total on any bytes and rejecting by name, and the
encoder beside it. -/

namespace Sys2Proof

/-! ### Byte order -/

/-- `A.byte[k]` (00_scope.md R8, 30_encoding.md R61). -/
def Address.byte (a : Address) (k : Nat) : Byte := a.extractLsb' (8 * k) 8

/-- The eight bytes of an address, byte 0 first (30_encoding.md R67). -/
def addressBytes (a : Address) : List Byte :=
  [Address.byte a 0, Address.byte a 1, Address.byte a 2, Address.byte a 3,
   Address.byte a 4, Address.byte a 5, Address.byte a 6, Address.byte a 7]

/-- The address with these bytes, byte 0 in bits 7:0 (30_encoding.md R61). -/
def addressOfBytes (b0 b1 b2 b3 b4 b5 b6 b7 : Byte) : Address :=
  b7 ++ b6 ++ b5 ++ b4 ++ b3 ++ b2 ++ b1 ++ b0

/-- The nine bytes of a scratchpad, `sp[0]` first (30_encoding.md R63). -/
def Scratchpad.bytes (sp : Scratchpad) : List Byte :=
  [sp.tempLsb, sp.tempMsb, sp.th, sp.tl, sp.config, sp.reserved5, sp.countRemain, sp.countPerC, sp.crc]

/-! ### Decoding -/

/-- Why bytes are no instruction (30_encoding.md R70 items 1 to 4). -/
inductive Reject where
  /-- Item 1: `op` in 0x12 to 0xFF. -/
  | unassignedOp
  /-- Item 2: format `BIT` with `b` not 0x00 or 0x01. -/
  | badBitOperand
  /-- Item 3: a target whose tag byte is not 0x00 or 0x01. -/
  | badTargetTag
  /-- Item 4: a request shorter or longer than its format's length. -/
  | wrongLength
  /-- A byte of the wire layer that is none of the nine of R71. -/
  | notAWireCommand
  deriving DecidableEq, Repr

/-- Reads a target from the front of the operand bytes and leaves the rest (30_encoding.md R67). -/
def readTarget : List Byte → Except Reject (Target × List Byte)
  | [] => .error .wrongLength
  | tag :: rest =>
    if tag = 0x00#8 then .ok (.broadcast, rest)
    else if tag = 0x01#8 then
      match rest with
      | b0 :: b1 :: b2 :: b3 :: b4 :: b5 :: b6 :: b7 :: rest' =>
        .ok (.address (addressOfBytes b0 b1 b2 b3 b4 b5 b6 b7), rest')
      | _ => .error .wrongLength
    else .error .badTargetTag

/-- Format `N`: nothing after `op`. -/
def formatN (i : Instr) (rest : List Byte) : Except Reject Instr :=
  match rest with
  | [] => .ok i
  | _ => .error .wrongLength

/-- Format `BIT`. The words `01 01` are named `READ_BIT` (R76). -/
def formatBit (rest : List Byte) : Except Reject Instr :=
  match rest with
  | [b] => if b = 0x00#8 then .ok (.writeBit false) else if b = 0x01#8 then .ok .readBit else .error .badBitOperand
  | _ => .error .wrongLength

/-- Format `BYTE`. The words `02 FF` are named `READ_BYTE` (R76). -/
def formatByte (rest : List Byte) : Except Reject Instr :=
  match rest with
  | [v] => if v = 0xFF#8 then .ok .readByte else .ok (.writeByte v)
  | _ => .error .wrongLength

/-- Format `CB`. -/
def formatCb (rest : List Byte) : Except Reject Instr :=
  match rest with
  | [c, v] => .ok (.crc8Update c v)
  | _ => .error .wrongLength

/-- Format `SEQ`: a count byte and that many bytes. -/
def formatSeq (mk : List Byte → Instr) (rest : List Byte) : Except Reject Instr :=
  match rest with
  | n :: bytes => if bytes.length = n.toNat then .ok (mk bytes) else .error .wrongLength
  | [] => .error .wrongLength

/-- Format `T`. -/
def formatT (mk : Target → Instr) (rest : List Byte) : Except Reject Instr :=
  match readTarget rest with
  | .ok (t, []) => .ok (mk t)
  | .ok (_, _ :: _) => .error .wrongLength
  | .error e => .error e

/-- Format `CT`. -/
def formatCt (rest : List Byte) : Except Reject Instr :=
  match rest with
  | cmd :: rest' => formatT (.addressedCommand cmd) rest'
  | [] => .error .wrongLength

/-- Format `WSP`. -/
def formatWsp (rest : List Byte) : Except Reject Instr :=
  match readTarget rest with
  | .ok (t, [th, tl, cfg]) => .ok (.writeScratchpad t th tl cfg)
  | .ok (_, _) => .error .wrongLength
  | .error e => .error e

/-- Format `FSP`. -/
def formatFsp (rest : List Byte) : Except Reject Instr :=
  match rest with
  | [fam, b0, b1, b2, b3, b4, b5, b6, b7, b8] => .ok (.decodeTemperature fam ⟨b0, b1, b2, b3, b4, b5, b6, b7, b8⟩)
  | _ => .error .wrongLength

/-- Decodes a host request: byte 0 is `op`, the operands follow in the format of R69 (30_encoding.md R66, R69,
R70 items 1 to 4). Items 5 to 7 of R70 depend on the meaning of the operands and are refused by the meanings. -/
def decodeRequest : List Byte → Except Reject Instr
  | [] => .error .wrongLength
  | op :: rest =>
    match op.toNat with
    | 0x00 => formatN .busReset rest
    | 0x01 => formatBit rest
    | 0x02 => formatByte rest
    | 0x03 => formatCt rest
    | 0x04 => formatCb rest
    | 0x05 => formatSeq .crc8 rest
    | 0x06 => formatSeq .crc8Check rest
    | 0x07 => formatN .searchReset rest
    | 0x08 => formatN .search rest
    | 0x09 => formatT .startConversion rest
    | 0x0A => formatN .conversionInProgress rest
    | 0x0B => formatT .parasitePowered rest
    | 0x0C => formatT .readScratchpad rest
    | 0x0D => formatWsp rest
    | 0x0E => formatT .copyScratchpad rest
    | 0x0F => formatT .recallEeprom rest
    | 0x10 => formatFsp rest
    | 0x11 => formatT .readTemperature rest
    | _ => .error .unassignedOp

/-- Decodes a byte of the wire layer: the nine command bytes of 30_encoding.md R71. -/
def decodeWire (byte : Byte) : Except Reject Instr :=
  match byte.toNat with
  | 0xF0 => .ok .wSearch
  | 0x55 => .ok .wMatch
  | 0xCC => .ok .wSkip
  | 0x44 => .ok .wConvert
  | 0x4E => .ok .wWriteScratchpad
  | 0xBE => .ok .wReadScratchpad
  | 0x48 => .ok .wCopyScratchpad
  | 0xB8 => .ok .wRecallEeprom
  | 0xB4 => .ok .wReadPowerSupply
  | _ => .error .notAWireCommand

/-- Decodes the words of either layer. -/
def decode : Frame → Except Reject Instr
  | .request bytes => decodeRequest bytes
  | .wire byte => decodeWire byte

/-! ### Encoding -/

/-- The bytes of a target (30_encoding.md R67). -/
def encodeTarget : Target → List Byte
  | .broadcast => [0x00#8]
  | .address a => 0x01#8 :: addressBytes a

/-- The count byte and the bytes of format `SEQ` (30_encoding.md R66). -/
def encodeSeq (bytes : List Byte) : List Byte := BitVec.ofNat 8 bytes.length :: bytes

/-- The words of an instruction (30_encoding.md R66, R67, R69, R71, R76). -/
def encode : Instr → Frame
  | .busReset => .request [0x00#8]
  | .writeBit b => .request [0x01#8, if b then 0x01#8 else 0x00#8]
  | .writeByte v => .request [0x02#8, v]
  | .addressedCommand cmd t => .request (0x03#8 :: cmd :: encodeTarget t)
  | .crc8Update c v => .request [0x04#8, c, v]
  | .crc8 bytes => .request (0x05#8 :: encodeSeq bytes)
  | .crc8Check bytes => .request (0x06#8 :: encodeSeq bytes)
  | .searchReset => .request [0x07#8]
  | .search => .request [0x08#8]
  | .startConversion t => .request (0x09#8 :: encodeTarget t)
  | .conversionInProgress => .request [0x0A#8]
  | .parasitePowered t => .request (0x0B#8 :: encodeTarget t)
  | .readScratchpad t => .request (0x0C#8 :: encodeTarget t)
  | .writeScratchpad t th tl cfg => .request (0x0D#8 :: (encodeTarget t ++ [th, tl, cfg]))
  | .copyScratchpad t => .request (0x0E#8 :: encodeTarget t)
  | .recallEeprom t => .request (0x0F#8 :: encodeTarget t)
  | .decodeTemperature fam sp => .request (0x10#8 :: fam :: sp.bytes)
  | .readTemperature t => .request (0x11#8 :: encodeTarget t)
  | .readBit => .request [0x01#8, 0x01#8]
  | .readByte => .request [0x02#8, 0xFF#8]
  | .wSearch => .wire 0xF0#8
  | .wMatch => .wire 0x55#8
  | .wSkip => .wire 0xCC#8
  | .wConvert => .wire 0x44#8
  | .wWriteScratchpad => .wire 0x4E#8
  | .wReadScratchpad => .wire 0xBE#8
  | .wCopyScratchpad => .wire 0x48#8
  | .wRecallEeprom => .wire 0xB8#8
  | .wReadPowerSupply => .wire 0xB4#8

/-- `WRITE_BIT 1` and `WRITE_BYTE 0xFF` have the same words as `READ_BIT` and `READ_BYTE` (30_encoding.md R76);
this is the one of the two that the decoder names. Log entry 4. -/
def Instr.canon (i : Instr) : Instr :=
  if i = .writeBit true then .readBit else if i = .writeByte 0xFF#8 then .readByte else i

/-! ### The opcode table's words -/

/-- The length in bytes of a target that stands at the front (30_encoding.md R66). -/
def targetLength (rest : List Byte) : Nat := if rest.headD 0 = 0x01#8 then 9 else 1

/-- The whole length in bytes, `op` included, of the request that begins with these bytes, where a byte that is
not given counts as 0 (30_encoding.md R66). -/
def requestLength (bytes : List Byte) : Nat :=
  let rest := bytes.drop 1
  match (bytes.headD 0).toNat with
  | 0x01 => 2
  | 0x02 => 2
  | 0x03 => 2 + targetLength (rest.drop 1)
  | 0x04 => 3
  | 0x05 => 2 + (rest.headD 0).toNat
  | 0x06 => 2 + (rest.headD 0).toNat
  | 0x09 => 1 + targetLength rest
  | 0x0B => 1 + targetLength rest
  | 0x0C => 1 + targetLength rest
  | 0x0D => 4 + targetLength rest
  | 0x0E => 1 + targetLength rest
  | 0x0F => 1 + targetLength rest
  | 0x10 => 11
  | 0x11 => 1 + targetLength rest
  | _ => 1

/-- The `count` low bytes of a table word, the most significant first: spec/opcode_table.json writes its two-byte
rows with byte 0 (`op`) in bits 15:8 (`READ_BYTE` is 0x02FF, op 0x02). Log entry 2. -/
def tableBytes (count w : Nat) : List Byte :=
  match count with
  | 0 => []
  | n + 1 => BitVec.ofNat 8 (w >>> (8 * n)) :: tableBytes n w

/-- The words that a word of spec/opcode_table.json stands for: a wire command byte, or a host request with every
operand byte that the table does not give set to 0. Log entries 2 and 3. -/
def tableFrame (nbits w : Nat) : Frame :=
  let bytes := tableBytes ((nbits + 7) / 8) w
  match decodeWire (BitVec.ofNat 8 w), decide (nbits ≤ 8) with
  | .ok _, true => .wire (BitVec.ofNat 8 w)
  | _, _ => .request (bytes ++ List.replicate (requestLength bytes - bytes.length) 0x00#8)

/-- The instruction that the decoder reads from a word of spec/opcode_table.json. -/
def decodeTableWord (nbits w : Nat) : Option Instr :=
  match decode (tableFrame nbits w) with
  | .ok i => some i
  | .error _ => none

end Sys2Proof
end

