-- ==== Sys2Proof/Machine/State.lean ====
section
/-! DEFINITION. The state of the machine, all of it plain data, and its value at reset. -/

namespace Sys2Proof.Machine

/-! ### Responses -/

/-- The status codes of 10_state.md R20. -/
inductive Status where
  | ok
  | busFault
  | protocolDesync
  | integrityError
  | timeout
  | done
  deriving DecidableEq, Repr

/-- The result fields of a response, one form for each row of 30_encoding.md R69 (10_state.md R21, R22). -/
inductive Result where
  /-- No result field. -/
  | none
  /-- `bit_out`. -/
  | bit (b : Bool)
  /-- `byte_out`. -/
  | byte (v : Byte)
  /-- `crc_out`. -/
  | crc (c : Byte)
  /-- `addr_out` and `has_more`. -/
  | found (addr : Address) (hasMore : Bool)
  /-- `busy`. -/
  | busy (b : Bool)
  /-- `parasite`. -/
  | parasite (b : Bool)
  /-- `sp_out[0..8]`. -/
  | scratchpad (sp : Scratchpad)
  /-- `temp_out`. -/
  | temperature (v : Word16)
  deriving DecidableEq, Repr

/-- A response: one status and the result fields of its operation (10_state.md R19). -/
structure Response where
  status : Status
  result : Result
  deriving DecidableEq, Repr

/-! ### The bus -/

/-- The two waits that an operation's rule names, by their parameter (00_scope.md R6). -/
inductive Timing where
  /-- `T_COPY_SETTLE` (43_sensor_protocol.md R120). -/
  | copySettle
  /-- `T_RECALL_POLL` (43_sensor_protocol.md R121). -/
  | recallPoll
  deriving DecidableEq, Repr

/-- The events of the bus history (20_memory.md R33). R33 writes `DELAY(t)` for a wait of t µs, and also says that runs
which differ only in timing parameters have the same history. DESIGN CHOICE: a delay event carries the parameter's name,
whose value in `State.cfg` is t, so that both hold. Log entry 30. -/
inductive Event where
  /-- `PRECHECK(ok)`. -/
  | precheck (ok : Bool)
  /-- `RESET(presence)`. -/
  | reset (presence : Bool)
  /-- `SLOT(w, r)`. -/
  | slot (w r : Bool)
  /-- `DELAY(t)`. -/
  | delay (t : Timing)
  deriving DecidableEq, Repr

/-- What a line sample is taken for: the three places where the rules call `LineSample` (40_bus_transport.md R85,
R87). The controller's line does not carry this; the reference environment knows it from the waveform. -/
inductive SampleKind where
  /-- The pre-check of a reset (R85), answered by one bit. -/
  | precheck
  /-- The presence sample after a reset pulse (R85). -/
  | presence
  /-- The sample of a write-1 slot (R87). -/
  | slot
  deriving DecidableEq, Repr

/-- One device of the reference environment (20_memory.md R39). -/
structure Device where
  rom : Address
  sp : Scratchpad
  parasite : Bool
  /-- The selection state (R38): taking part in a search or a match, or selected. -/
  active : Bool
  deriving DecidableEq, Repr

/-- The three slots of a search position (20_memory.md R40). -/
inductive SearchSlot where
  | trueBit
  | complementBit
  | direction
  deriving DecidableEq, Repr

/-- Where a transaction of the reference environment stands (20_memory.md R40, R41): what the next slot means. The
bits received so far of a byte or an address are kept in the order they came. -/
inductive Phase where
  /-- The spec defines no answer: before the first reset, after copy-scratchpad, after the one slot that read-power-supply
  answers, after a function command it does not name. Log entry 18. -/
  | unspecified
  | romCommand (got : List Bool)
  /-- At search position `p`, 1 to 64. -/
  | searching (p : Nat) (slot : SearchSlot)
  | matching (got : List Bool)
  /-- After an unknown ROM command: the devices ignore the rest of the transaction. -/
  | ignoring
  | functionCommand (got : List Bool)
  /-- The next read slot carries bit `k` of the scratchpad, 0 to 71. -/
  | readingScratchpad (k : Nat)
  /-- Receiving payload byte `index` of write-scratchpad. -/
  | writingScratchpad (index : Nat) (got : List Bool)
  /-- Busy for `left` more read slots after convert. -/
  | converting (left : Nat)
  /-- The next read slot after read-power-supply carries the power bit. -/
  | powerSupply
  /-- In progress for `left` more read slots after recall-EEPROM. -/
  | recalling (left : Nat)
  deriving DecidableEq, Repr

/-- The reference environment (20_memory.md R39): the devices, a short, the phase of the transaction, and its
parameters `CONV_BUSY` and `RECALL_BUSY` (R41). -/
structure RefBus where
  short : Bool
  devices : List Device
  phase : Phase
  convBusy : Nat
  recallBusy : Nat
  deriving DecidableEq, Repr

/-- The environment (20_memory.md R32): answers still to come, first next, and free draws once they are used up; or
the reference environment. The first form covers every environment: a statement about every state holds for every
sequence of answers. Log entry 5. -/
inductive Environment where
  | answers (pending : List Bool)
  | reference (bus : RefBus)
  deriving DecidableEq, Repr

/-! ### The machine -/

/-- What the outside world gives the block next: the words of an instruction, or a block reset
(70_reset_and_hazards.md R151). Log entries 1, 3 and 15. -/
inductive Input where
  | frame (f : Frame)
  | blockReset
  deriving DecidableEq, Repr

/-- The state: the registers of the block (10_state.md R13 to R16), the platform's interrupt enable
(60_exceptions.md R140), the responses and the history that a run is observed by (70_reset_and_hazards.md R164), the
environment, the requests still to be issued, the counter of free values, and the parameters. -/
structure State where
  /-- `LINE_DRV`: true while the block drives the line low (R13). -/
  lineDrv : Bool
  /-- `CS_HELD`: true inside a critical section (R14). -/
  csHeld : Bool
  /-- `CS_SAVED`: the interrupt enable saved at entry (R14). -/
  csSaved : Bool
  /-- `SEARCH_LD` (R15): 0 is `DONE`, 1 to 64 a position, 0xFF `FRESH`. -/
  searchLd : Byte
  /-- `SEARCH_ROM` (R16). -/
  searchRom : Address
  /-- `IE`, the platform's interrupt enable (R140). -/
  ie : Bool
  /-- The bus event history, oldest first (R33). -/
  history : List Event
  /-- The responses returned to the host, oldest first (R19, R164). No operation reads them. -/
  responses : List Response
  /-- The devices and the pull-up (R32, R38). -/
  env : Environment
  /-- The requests the host has still to issue, next first (R18). The model's own. -/
  inputs : List Input
  /-- How many free values have been drawn. The model's own. -/
  draws : Nat
  /-- The parameters of 00_scope.md R6, which no step changes. -/
  cfg : Params
  deriving DecidableEq, Repr

/-- Faults: none. The block "raises no exception, trap or interrupt" and reports every failure as a status
(60_exceptions.md R130), so no step raises one; the type has no constructor. Safe: nothing is stopped. -/
inductive Fault where
  deriving DecidableEq, Repr

/-- Refusals. -/
inductive Refusal where
  /-- Raised by `exec` for an instruction that has no meaning yet. Safe. -/
  | notModelled (mnemonic : String)
  /-- Raised by `step` for words the decoder rejects (30_encoding.md R70 items 1 to 4). Safe: the spec refuses
  them, with no bus activity and no state change. -/
  | malformed (why : Reject)
  /-- Raised by `CRC8_CHECK` with `n = 0` (R70 item 5). Safe: the spec refuses it. -/
  | noCheckByte
  /-- Raised by `READ_TEMPERATURE` with target `BROADCAST` (R70 item 6). Safe: the spec refuses it. -/
  | noFamily
  /-- Raised by `DECODE_TEMPERATURE` and `READ_TEMPERATURE` for a family outside A, B, C (R70 item 7). Safe: the
  spec refuses it. -/
  | unknownFamily
  /-- Raised by every operation that would enter a critical section while `CS_HELD = 1` (60_exceptions.md R141).
  Safe: the spec refuses it, and no state with `CS_HELD = 0` leads to it. -/
  | nestedCriticalSection
  /-- Raised by the host's readers of result flags (Machine/Flags.lean) for a flag that the response does not return: one
  of another operation, or one with a status other than `OK` (10_state.md R21, R23). Safe. No step raises it. -/
  | flagNotReturned
  deriving DecidableEq, Repr

/-- The machine right after reset: 10_state.md R26 and 70_reset_and_hazards.md R151 for the registers of the block,
with nothing on the bus history, no response and no request. `IE`, `CS_SAVED`, the environment and the counter are
named in log entries 6 and 8. -/
def State.reset : State where
  lineDrv := false
  csHeld := false
  csSaved := false
  searchLd := 0xFF#8
  searchRom := 0#64
  ie := false
  history := []
  responses := []
  env := .answers []
  inputs := []
  draws := 0
  cfg := Params.default

end Sys2Proof.Machine
end

