-- ==== Sys2Proof/Machine/Crc8.lean ====
section
/-! DEFINITION. The CRC-8 function of 41_crc8_checker.md R100. -/

namespace Sys2Proof.Machine

/-- One turn of the bit loop of R100. 0x8C is the polynomial 0x31 with its bits reversed. -/
def crc8Shift (c b : Byte) : Byte :=
  if (c ^^^ b).getLsbD 0 then (c >>> 1) ^^^ 0x8C#8 else c >>> 1

/-- `n` turns of the bit loop of R100, each shifting the data byte right by one. -/
def crc8Bits : Nat → Byte → Byte → Byte
  | 0, c, _ => c
  | n + 1, c, b => crc8Bits n (crc8Shift c b) (b >>> 1)

/-- `crc8_update(c, b)`: eight turns (R100). -/
def crc8Update (c b : Byte) : Byte := crc8Bits 8 c b

/-- The CRC continued from `c` over a byte sequence (R100). -/
def crc8From (c : Byte) : List Byte → Byte
  | [] => c
  | b :: bs => crc8From (crc8Update c b) bs

/-- `crc8(b[0..n-1])`, from the initial value 0x00 and with no final XOR (R100). -/
def crc8 (bytes : List Byte) : Byte := crc8From 0x00#8 bytes

end Sys2Proof.Machine
end

