-- ==== Sys2Proof/Machine/Operands.lean ====
section
/-! DEFINITION. The operand forms: bits of a byte in wire order, scratchpads from bytes, bits of an address, the
family variants and resolution masks, and the byte form of a response. -/

namespace Sys2Proof.Machine

/-! ### Bits and bytes on the wire -/

/-- The bits of a byte in wire order, least significant first (20_memory.md R34). -/
def byteBits (v : Byte) : List Bool :=
  [v.getLsbD 0, v.getLsbD 1, v.getLsbD 2, v.getLsbD 3, v.getLsbD 4, v.getLsbD 5, v.getLsbD 6, v.getLsbD 7]

/-- The number whose bits, least significant first, are these: `Σ r_i << i` (30_encoding.md R74). -/
def natOfBits : List Bool → Nat
  | [] => 0
  | b :: bs => b.toNat + 2 * natOfBits bs

/-- The byte with these bits, least significant first (30_encoding.md R74). -/
def byteOfBits (bits : List Bool) : Byte := BitVec.ofNat 8 (natOfBits bits)

/-- The address with these bits, bit 0 of byte 0 first (30_encoding.md R61, 20_memory.md R35). -/
def addressOfBits (bits : List Bool) : Address := BitVec.ofNat 64 (natOfBits bits)

/-- The bits of a list of bytes in wire order (20_memory.md R34, R35). -/
def bytesBits : List Byte → List Bool
  | [] => []
  | b :: bs => byteBits b ++ bytesBits bs

/-- The scratchpad with these bytes, `sp[0]` first (20_memory.md R35). It is only used on nine bytes. -/
def scratchpadOfBytes (bytes : List Byte) : Scratchpad where
  tempLsb := bytes.getD 0 0
  tempMsb := bytes.getD 1 0
  th := bytes.getD 2 0
  tl := bytes.getD 3 0
  config := bytes.getD 4 0
  reserved5 := bytes.getD 5 0
  countRemain := bytes.getD 6 0
  countPerC := bytes.getD 7 0
  crc := bytes.getD 8 0

/-- The first eight bytes of a scratchpad, which its CRC covers (30_encoding.md R63). -/
def scratchpadBody (sp : Scratchpad) : List Byte :=
  [sp.tempLsb, sp.tempMsb, sp.th, sp.tl, sp.config, sp.reserved5, sp.countRemain, sp.countPerC]

/-- Bit `k` of a scratchpad in wire order: bit `k mod 8` of byte `k div 8` (20_memory.md R34, R35). -/
def scratchpadBit (sp : Scratchpad) (k : Nat) : Bool := ((Sys2Proof.Scratchpad.bytes sp).getD (k / 8) 0).getLsbD (k % 8)

/-! ### Addresses -/

/-- The bit of an address at search position `p`, 1 to 64: `A[p-1]` (30_encoding.md R62). -/
def addressBit (a : Address) (p : Nat) : Bool := a.getLsbD (p - 1)

/-- `addr[p-1] <- d` (42_device_search_engine.md R109). -/
def setAddressBit (a : Address) (p : Nat) (d : Bool) : Address :=
  if d then a ||| (1#64 <<< (p - 1)) else a &&& ~~~(1#64 <<< (p - 1))

/-! ### Families -/

/-- The decode variants of 44_temperature_decoder.md R125. -/
inductive Variant where
  | legacy
  | prog
  deriving DecidableEq, Repr

/-- The variant of a family code; none for a family the decode refuses (44_temperature_decoder.md R125). -/
def variantOf (p : Params) (fam : Byte) : Option Variant :=
  if fam = p.familyA then some .legacy
  else if fam = p.familyB ∨ fam = p.familyC then some .prog
  else none

/-- Whether the target is an address of a programmable-resolution family, the only ones that take the configuration
byte (43_sensor_protocol.md R119). -/
def takesConfig (p : Params) : Target → Bool
  | .broadcast => false
  | .address a => decide (Sys2Proof.Address.byte a 0 = p.familyB ∨ Sys2Proof.Address.byte a 0 = p.familyC)

/-- The resolution code `CONFIG[6:5]` (30_encoding.md R64). -/
def resolutionCode (config : Byte) : BitVec 2 := config.extractLsb' 5 2

/-- The mask of a resolution code (30_encoding.md R64). -/
def resolutionMask (code : BitVec 2) : Word16 :=
  match code.toNat with
  | 0 => 0xFFF8#16
  | 1 => 0xFFFC#16
  | 2 => 0xFFFE#16
  | _ => 0xFFFF#16

/-! ### The byte form of a response -/

/-- The status byte (10_state.md R20). -/
def Status.code : Status → Byte
  | .ok => 0x00#8
  | .busFault => 0x01#8
  | .protocolDesync => 0x02#8
  | .integrityError => 0x03#8
  | .timeout => 0x04#8
  | .done => 0x05#8

/-- A flag as a byte, 0x00 or 0x01 (30_encoding.md R68). -/
def flagByte (b : Bool) : Byte := if b then 0x01#8 else 0x00#8

/-- The result fields in the order of 30_encoding.md R69, least significant byte first (R68). -/
def Result.bytes : Result → List Byte
  | .none => []
  | .bit b => [flagByte b]
  | .byte v => [v]
  | .crc c => [c]
  | .found addr hasMore => addressBytes addr ++ [flagByte hasMore]
  | .busy b => [flagByte b]
  | .parasite b => [flagByte b]
  | .scratchpad sp => Sys2Proof.Scratchpad.bytes sp
  | .temperature v => [v.extractLsb' 0 8, v.extractLsb' 8 8]

/-- A response as the bytes the host receives: the status, then the result fields (30_encoding.md R68). -/
def Response.bytes (r : Response) : List Byte := Status.code r.status :: Result.bytes r.result

end Sys2Proof.Machine
end

