-- ==== Sys2Proof/Machine/Environment.lean ====
section
/-! DEFINITION. How the environment answers: the reference environment of 20_memory.md R39 to R42. -/

namespace Sys2Proof.Machine

/-! ### What the devices drive -/

/-- The AND over the devices that are taking part or selected of the bit each drives; 1 if there are none (20_memory.md
R31, R40). -/
def wiredAnd (devices : List Device) (drive : Device → Bool) : Bool :=
  devices.all (fun d => !d.active || drive d)

/-- Whether some device is taking part or selected. -/
def anyActive (devices : List Device) : Bool := devices.any (fun d => d.active)

/-- A sample where the spec defines no answer: free if a device is taking part or selected, else 1, since nothing drives
the line. DESIGN CHOICE, log entry 18. -/
def undefinedAnswer (bus : RefBus) : Option Bool := if anyActive bus.devices then none else some true

/-- The busy bit after convert, with `left` busy slots to come (20_memory.md R38, R41). A selected device that is not
parasite-powered drives 0 while it converts and 1 after, and a 0 holds the line whatever the others do. The answer of a
selected parasite-powered device is unspecified (43_sensor_protocol.md R123, 93_implementation_defined.md U12), so where it
decides the sample is free. Log entry 20. -/
def busyAnswer (left : Nat) (devices : List Device) : Option Bool :=
  if left ≠ 0 ∧ devices.any (fun d => d.active && !d.parasite) then some false
  else if devices.any (fun d => d.active && d.parasite) then none
  else some true

/-- What a read slot carries in the current phase: the AND of what the devices drive, where a device that is not
driving leaves a 1 (20_memory.md R40, R41). None where no answer is fixed (log entries 18 and 20). The spec defines one
answer after read-power-supply, "the next read slot" (R41); every later slot is in the phase with no defined answer
(91_not_in_source.md N9). -/
def slotAnswer (bus : RefBus) : Option Bool :=
  match bus.phase with
  | .unspecified => undefinedAnswer bus
  | .romCommand _ => some true
  | .searching p .trueBit => some (wiredAnd bus.devices (fun d => addressBit d.rom p))
  | .searching p .complementBit => some (wiredAnd bus.devices (fun d => !addressBit d.rom p))
  | .searching _ .direction => some true
  | .matching _ => some true
  | .ignoring => some true
  | .functionCommand _ => some true
  | .readingScratchpad k =>
    some (decide (72 ≤ k) || wiredAnd bus.devices (fun d => scratchpadBit d.sp k))
  | .writingScratchpad _ _ => some true
  | .converting left => busyAnswer left bus.devices
  | .powerSupply => some (wiredAnd bus.devices (fun d => !d.parasite))
  | .recalling left => some (decide (left = 0) || !anyActive bus.devices)

/-- What a sample reads on the reference bus. A short holds the line low (20_memory.md R39, R31); a device answers a
reset pulse by pulling the line low (R39). -/
def RefBus.answer (bus : RefBus) : SampleKind → Option Bool
  | .precheck => some (!bus.short)
  | .presence => some (!bus.short && bus.devices.isEmpty)
  | .slot => if bus.short then some false else slotAnswer bus

/-! ### How the devices move on -/

/-- Stores payload byte `index` of write-scratchpad in a device: TH, TL, and for a programmable family the
configuration byte, of which bits 6:5 are written and bits 4:0 read as 1 (20_memory.md R41, R42). -/
def storePayload (p : Params) (index : Nat) (v : Byte) (d : Device) : Scratchpad :=
  match index with
  | 0 => { d.sp with th := v }
  | 1 => { d.sp with tl := v }
  | 2 =>
    if Sys2Proof.Address.byte d.rom 0 = p.familyB ∨ Sys2Proof.Address.byte d.rom 0 = p.familyC then
      { d.sp with config := (v &&& 0x60#8) ||| 0x1F#8 }
    else d.sp
  | _ => d.sp

/-- A selected device after a payload byte: the byte stored and the CRC recomputed (20_memory.md R41). Log entry 19. -/
def Device.receive (p : Params) (index : Nat) (v : Byte) (d : Device) : Device :=
  if d.active && decide (index < 3) then
    let sp := storePayload p index v d
    { d with sp := { sp with crc := crc8 (scratchpadBody sp) } }
  else d

/-- Keeps taking part only the devices for which the test holds (20_memory.md R38, R40). -/
def keepActive (test : Device → Bool) (devices : List Device) : List Device :=
  devices.map (fun d => { d with active := d.active && test d })

/-- Every device takes part (20_memory.md R39). -/
def activateAll (devices : List Device) : List Device := devices.map (fun d => { d with active := true })

/-- The phase a ROM command byte opens (20_memory.md R40). -/
def romPhase (command : Byte) : Phase :=
  match command.toNat with
  | 0xF0 => .searching 1 .trueBit
  | 0x55 => .matching []
  | 0xCC => .functionCommand []
  | _ => .ignoring

/-- The phase a function command byte opens (20_memory.md R41). -/
def functionPhase (bus : RefBus) (command : Byte) : Phase :=
  match command.toNat with
  | 0xBE => .readingScratchpad 0
  | 0x4E => .writingScratchpad 0 []
  | 0x44 => .converting bus.convBusy
  | 0xB4 => .powerSupply
  | 0xB8 => .recalling bus.recallBusy
  | _ => .unspecified

/-- The reference bus after a slot that wrote `w` (20_memory.md R40, R41). -/
def RefBus.slot (p : Params) (w : Bool) (bus : RefBus) : RefBus :=
  match bus.phase with
  | .unspecified => bus
  | .romCommand got =>
    if got.length < 7 then { bus with phase := .romCommand (got ++ [w]) }
    else { bus with phase := romPhase (byteOfBits (got ++ [w])) }
  | .searching q .trueBit => { bus with phase := .searching q .complementBit }
  | .searching q .complementBit => { bus with phase := .searching q .direction }
  | .searching q .direction =>
    { bus with
      devices := keepActive (fun d => addressBit d.rom q == w) bus.devices
      phase := if q < 64 then .searching (q + 1) .trueBit else .functionCommand [] }
  | .matching got =>
    if got.length < 63 then { bus with phase := .matching (got ++ [w]) }
    else
      { bus with
        devices := keepActive (fun d => d.rom == addressOfBits (got ++ [w])) bus.devices
        phase := .functionCommand [] }
  | .ignoring => bus
  | .functionCommand got =>
    if got.length < 7 then { bus with phase := .functionCommand (got ++ [w]) }
    else { bus with phase := functionPhase bus (byteOfBits (got ++ [w])) }
  | .readingScratchpad k => { bus with phase := .readingScratchpad (k + 1) }
  | .writingScratchpad index got =>
    if got.length < 7 then { bus with phase := .writingScratchpad index (got ++ [w]) }
    else
      { bus with
        devices := bus.devices.map (Device.receive p index (byteOfBits (got ++ [w])))
        phase := .writingScratchpad (index + 1) [] }
  | .converting left => { bus with phase := .converting (if w then left - 1 else left) }
  | .powerSupply => { bus with phase := if w then .unspecified else .powerSupply }
  | .recalling left => { bus with phase := .recalling (if w then left - 1 else left) }

/-- The reference bus after a sample: a reset puts every device in the ROM-command phase, all taking part (20_memory.md
R39). -/
def RefBus.after (p : Params) (bus : RefBus) : SampleKind → RefBus
  | .precheck => bus
  | .presence => { bus with devices := activateAll bus.devices, phase := .romCommand [] }
  | .slot => RefBus.slot p true bus

end Sys2Proof.Machine
end

