-- ==== Sys2Proof/Machine/Flags.lean ====
section
/-! DEFINITION. The flag computations (10_state.md R21), the result fields of a failed operation (R23), and the
host's readers of flags. -/

namespace Sys2Proof.Machine

/-- `busy`: "1 if the sampled bit was 0" (10_state.md R21, 43_sensor_protocol.md R116). -/
def busyFlag (sample : Bool) : Bool := !sample

/-- `parasite`: "1 if the sampled bit was 0" (10_state.md R21, 43_sensor_protocol.md R117). -/
def parasiteFlag (sample : Bool) : Bool := !sample

/-- `has_more`: a discrepancy was recorded, `lz ≠ 0` (10_state.md R21, 42_device_search_engine.md R109). -/
def hasMoreFlag (lz : Nat) : Bool := decide (lz ≠ 0)

/-- Presence: a device pulled the line low at the presence sample (40_bus_transport.md R85). -/
def presenceFlag (sample : Bool) : Bool := !sample

/-- Which result fields an operation returns (30_encoding.md R69), for those that can fail. -/
inductive ResultKind where
  | none
  | found
  | parasite
  | scratchpad
  | temperature
  deriving DecidableEq, Repr

/-- A scratchpad from 72 bits, `sp[0]` in the low byte. -/
def scratchpadOfBits (v : BitVec 72) : Scratchpad where
  tempLsb := v.extractLsb' 0 8
  tempMsb := v.extractLsb' 8 8
  th := v.extractLsb' 16 8
  tl := v.extractLsb' 24 8
  config := v.extractLsb' 32 8
  reserved5 := v.extractLsb' 40 8
  countRemain := v.extractLsb' 48 8
  countPerC := v.extractLsb' 56 8
  crc := v.extractLsb' 64 8

/-- The n-th free bit. -/
def freeBit (n : Nat) : Bool := (Config.freeBits 1 n).getLsbD 0

/-- The result fields of an operation that returned a status other than `OK`: present, and free values (10_state.md
R23, 30_encoding.md R68, 93_implementation_defined.md U2). Log entry 10. -/
def freeResult (n : Nat) : ResultKind → Result
  | .none => .none
  | .found => .found (Config.freeBits 64 n) (freeBit n)
  | .parasite => .parasite (freeBit n)
  | .scratchpad => .scratchpad (scratchpadOfBits (Config.freeBits 72 n))
  | .temperature => .temperature (Config.freeBits 16 n)

/-- The host reads `has_more`: present in the response of a `SEARCH` "with `OK` only", else refused (10_state.md R21, R23).
Log entry 12. -/
def readHasMore (r : Response) : Host.Outcome Bool Fault Refusal :=
  match r.status, r.result with
  | .ok, .found _ b => .next b
  | _, _ => .refused .flagNotReturned

/-- The host reads `busy`: present in the response of `CONVERSION_IN_PROGRESS`, whose status is always `OK`
(43_sensor_protocol.md R116), else refused (10_state.md R21, R23). Log entry 12. -/
def readBusy (r : Response) : Host.Outcome Bool Fault Refusal :=
  match r.status, r.result with
  | .ok, .busy b => .next b
  | _, _ => .refused .flagNotReturned

/-- The host reads `parasite`: present in the response of a `PARASITE_POWERED` "with `OK` only", else refused (10_state.md
R21, R23). Log entry 12. -/
def readParasite (r : Response) : Host.Outcome Bool Fault Refusal :=
  match r.status, r.result with
  | .ok, .parasite b => .next b
  | _, _ => .refused .flagNotReturned

end Sys2Proof.Machine
end

