-- ==== Sys2Proof/Machine/Ops.lean ====
section
/-! DEFINITION. The named operations over the state: the platform primitives of 60_exceptions.md R140 and R141, the
bus primitives of 40_bus_transport.md R85, R87, R90 and R92, and the two ways an operation ends. The block takes no
exception and has no return from one (R130): a failure ends the operation with a status, which `fail` does.

`CS_Enter` is refused while `CS_HELD = 1` (R141). No rule nests it, so only an operation that STARTS with
`CS_HELD = 1` can meet the refusal, at its first `CS_Enter`; `guardWindow` decides it there. Log entry 11. -/

namespace Sys2Proof.Machine

/-! ### Platform primitives (R140, R141) -/

/-- `LineDriveLow()` (R140). -/
def lineDriveLow (s : State) : State := { s with lineDrv := true }

/-- `LineRelease()` (R140). -/
def lineRelease (s : State) : State := { s with lineDrv := false }

/-- `Delay(t)`: "It changes no state" (R140). -/
def delay (_t : Nat) (s : State) : State := s

/-- A free draw of the environment (20_memory.md R32). -/
def drawSample (s : State) : State × Bool := ({ s with draws := s.draws + 1 }, Config.freeSample s.draws)

/-- The answer of the environment to a sample (20_memory.md R32): the next answer given to the machine, a free draw
where none is given, or the answer of the reference environment. -/
def envSample (k : SampleKind) (s : State) : State × Bool :=
  match s.env with
  | .answers (a :: as) => ({ s with env := .answers as }, a)
  | .answers [] => drawSample s
  | .reference bus =>
    let s' := { s with env := .reference (RefBus.after s.cfg bus k) }
    match RefBus.answer bus k with
    | some a => (s', a)
    | none => drawSample s'

/-- `LineSample()` (R140): 0 while the block drives the line low, else the answer of the environment (20_memory.md R31,
R32). -/
def lineSample (k : SampleKind) (s : State) : State × Bool :=
  if s.lineDrv then (s, false) else envSample k s

/-- The devices see a write-0 slot, in which the block takes no sample (20_memory.md R40, 40_bus_transport.md R87). -/
def envWriteZero (s : State) : State :=
  match s.env with
  | .answers _ => s
  | .reference bus => { s with env := .reference (RefBus.slot s.cfg false bus) }

/-- `CS_Enter()` (R141), past its refusal. -/
def csEnter (s : State) : State := { s with csSaved := s.ie, ie := false, csHeld := true }

/-- `CS_Exit()` (R141). -/
def csExit (s : State) : State := { s with ie := s.csSaved, csHeld := false }

/-- Runs an operation unless it would enter a critical section while one is held: `reaches` says whether the
operation gets as far as a `CS_Enter` (R141). -/
def guardWindow (reaches : Bool) (s : State) (after : State) : Host.Outcome State Fault Refusal :=
  if s.csHeld && reaches then .refused .nestedCriticalSection else .next after

/-! ### History and responses -/

/-- Appends an event to the bus history (20_memory.md R33). -/
def record (e : Event) (s : State) : State := { s with history := s.history ++ [e] }

/-- Ends the operation with a response (10_state.md R19). -/
def respond (status : Status) (result : Result) (s : State) : State :=
  { s with responses := s.responses ++ [⟨status, result⟩] }

/-- Ends the operation with a status other than `OK`; the result fields are present and free (10_state.md R23). -/
def fail (status : Status) (kind : ResultKind) (s : State) : State :=
  respond status (freeResult s.draws kind) { s with draws := s.draws + 1 }

/-- The length in microseconds of a wait that a rule names (00_scope.md R6). -/
def waitTime (p : Params) : Timing → Nat
  | .copySettle => p.tCopySettle
  | .recallPoll => p.tRecallPoll

/-- A busy-wait that the rule of the operation names: a `DELAY(t)` event (20_memory.md R33). The event names the parameter
and not its value: DESIGN CHOICE, log entry 30. -/
def namedDelay (t : Timing) (s : State) : State := record (.delay t) (delay (waitTime s.cfg t) s)

/-! ### Bus primitives (40_bus_transport.md) -/

/-- The pre-check of `ResetPulse`: whether the line reads high within `T_PRECHECK`, answered by one drawn bit
(R85). -/
def precheck (s : State) : State × Bool :=
  let p := lineSample .precheck (delay s.cfg.tPrecheck s)
  (record (.precheck p.2) p.1, p.2)

/-- The pulse and the presence sample of `ResetPulse` (R85). -/
def presencePulse (s : State) : State × Bool :=
  let low := delay s.cfg.tRstl (lineDriveLow s)
  let p := lineSample .presence (delay s.cfg.tMsp (lineRelease (csEnter low)))
  let presence := presenceFlag p.2
  (record (.reset presence) (delay s.cfg.tRsth (csExit p.1)), presence)

/-- `ResetPulse()` (R85). -/
def resetPulse (s : State) : State × Bool :=
  let p := precheck s
  if p.2 then presencePulse p.1 else (p.1, false)

/-- The window of `Slot(w)`: drive low, release, and with `w = 1` the sample (R87). -/
def slotWindow (w : Bool) (s : State) : State × Bool :=
  let low := lineDriveLow (csEnter s)
  if w then lineSample .slot (delay s.cfg.tRdv (lineRelease (delay s.cfg.tW1l low)))
  else (envWriteZero (lineRelease (delay s.cfg.tW0l low)), false)

/-- `Slot(w)` (R87). -/
def slot (w : Bool) (s : State) : State × Bool :=
  let r := slotWindow w s
  let rest := if w then s.cfg.tW1rec else s.cfg.tW0rec
  (record (.slot w r.2) (delay rest (csExit r.1)), r.2)

/-- Slots in order, with the sampled bits (R90). -/
def slots : List Bool → State → State × List Bool
  | [], s => (s, [])
  | w :: ws, s =>
    let r := slot w s
    let rest := slots ws r.1
    (rest.1, r.2 :: rest.2)

/-- `XferByte(v)`: eight slots, least significant bit first (R90). -/
def xferByte (v : Byte) (s : State) : State × Byte :=
  let r := slots (byteBits v) s
  (r.1, byteOfBits r.2)

/-- Sends bytes in order; the received bytes are discarded (R92). -/
def sendBytes : List Byte → State → State
  | [], s => s
  | b :: bs, s => sendBytes bs (xferByte b s).1

/-- Reads `n` bytes: `XferByte(0xFF)` each (43_sensor_protocol.md R118). -/
def receiveBytes : Nat → State → State × List Byte
  | 0, s => (s, [])
  | n + 1, s =>
    let r := xferByte 0xFF#8 s
    let rest := receiveBytes n r.1
    (rest.1, r.2 :: rest.2)

/-- The bytes that select a target: skip, or match and the eight address bytes, byte 0 first (R92). -/
def selectBytes : Target → List Byte
  | .broadcast => [0xCC#8]
  | .address a => 0x55#8 :: addressBytes a

/-- `Select(target)` (R92). -/
def select (t : Target) (s : State) : State × Bool :=
  let r := resetPulse s
  if r.2 then (sendBytes (selectBytes t) r.1, true) else (r.1, false)

/-- The common shape of the addressed operations: `Select`, then one command byte, then what the operation does
next; `BUS_FAULT` if the reset fails, with nothing sent (R93, 43_sensor_protocol.md R115 to R121). -/
def addressed (t : Target) (command : Byte) (kind : ResultKind) (next : State → State) (s : State) : State :=
  let r := select t s
  if r.2 then next (xferByte command r.1).1 else fail .busFault kind r.1

/-- Whether an operation that opens with `ResetPulse` gets as far as its first `CS_Enter`: the pre-check read high
(R85). -/
def resetReaches (s : State) : Bool := (precheck s).2

end Sys2Proof.Machine
end

