-- ==== Sys2Proof/Machine/Checker.lean ====
section
/-! DEFINITION. The meanings of the CRC-8 operations (41_crc8_checker.md). They have no bus activity and touch no
state but the response. -/

namespace Sys2Proof.Machine

/-- `CRC8_UPDATE c, v` (R101). -/
def execCrc8Update (c v : Byte) (s : State) : Host.Outcome State Fault Refusal :=
  .next (respond .ok (.crc (crc8Update c v)) s)

/-- `CRC8 [b0 .. bn-1]` (R102). -/
def execCrc8 (bytes : List Byte) (s : State) : Host.Outcome State Fault Refusal :=
  .next (respond .ok (.crc (crc8 bytes)) s)

/-- Whether the CRC of all bytes but the last is the last byte (R103). -/
def crc8Passes (bytes : List Byte) : Bool := crc8 bytes.dropLast == bytes.getLastD 0

/-- `CRC8_CHECK [b0 .. bn-1]` (R103); refused with `n = 0` (30_encoding.md R70 item 5). -/
def execCrc8Check (bytes : List Byte) (s : State) : Host.Outcome State Fault Refusal :=
  match bytes with
  | [] => .refused .noCheckByte
  | b :: bs => .next (if crc8Passes (b :: bs) then respond .ok .none s else fail .integrityError .none s)

end Sys2Proof.Machine
end

