-- ==== Sys2Proof/Machine/Search.lean ====
section
/-! DEFINITION. The meanings of the device search engine (42_device_search_engine.md). -/

namespace Sys2Proof.Machine

/-- `SEARCH_RESET` (R107). -/
def execSearchReset (s : State) : Host.Outcome State Fault Refusal :=
  .next (respond .ok .none { s with searchLd := 0xFF#8, searchRom := 0#64 })

/-- `Choose(p, a, b, ldc, prev)`: the bit to write and whether `p` is recorded, or none on the (1,1) pair (R108). -/
def choose (p : Nat) (a b : Bool) (ldc : Nat) (prev : Address) : Option (Bool × Bool) :=
  if a && b then none
  else if a != b then some (a, false)
  else
    let d := if p < ldc then addressBit prev p else decide (p = ldc)
    some (d, !d)

/-- The walk of `SEARCH` over `n` positions from `p` on: the address and the deepest recorded discrepancy, or none on
a (1,1) pair (R109 step 3). -/
def searchWalk : Nat → Nat → Nat → Address → Nat → Address → State → State × Option (Nat × Address)
  | 0, _, _, _, lz, addr, s => (s, some (lz, addr))
  | n + 1, p, ldc, prev, lz, addr, s =>
    let a := slot true s
    let b := slot true a.1
    match choose p a.2 b.2 ldc prev with
    | none => (b.1, none)
    | some (d, rec) =>
      searchWalk n (p + 1) ldc prev (if rec then p else lz) (setAddressBit addr p d) (slot d b.1).1

/-- `ldc`: the comparison value of a search; `FRESH` counts as 0 (R109). -/
def comparisonValue (ld : Byte) : Nat := if ld = 0xFF#8 then 0 else ld.toNat

/-- `SEARCH` once the reset has seen presence: the directive, the walk, and on success the new search state (R109 steps
2 to 4). A (1,1) pair changes no search state (R110). -/
def searchRound (s : State) : State :=
  let w := searchWalk 64 1 (comparisonValue s.searchLd) s.searchRom 0 0#64 (xferByte 0xF0#8 s).1
  match w.2 with
  | none => fail .protocolDesync .found w.1
  | some (lz, addr) =>
    respond .ok (.found addr (hasMoreFlag lz)) { w.1 with searchLd := BitVec.ofNat 8 lz, searchRom := addr }

/-- `SEARCH` (R109). -/
def execSearch (s : State) : Host.Outcome State Fault Refusal :=
  if s.searchLd = 0x00#8 then .next (fail .done .found s)
  else
    let r := resetPulse s
    guardWindow (resetReaches s) s (if r.2 then searchRound r.1 else fail .busFault .found r.1)

end Sys2Proof.Machine
end

