-- ==== Sys2Proof/Machine/Sensor.lean ====
section
/-! DEFINITION. The meanings of the sensor command protocol (43_sensor_protocol.md). -/

namespace Sys2Proof.Machine

/-- `START_CONVERSION T` (R115). -/
def execStartConversion (t : Target) (s : State) : Host.Outcome State Fault Refusal :=
  guardWindow (resetReaches s) s (addressed t 0x44#8 .none (respond .ok .none) s)

/-- `CONVERSION_IN_PROGRESS` (R116). -/
def execConversionInProgress (s : State) : Host.Outcome State Fault Refusal :=
  let r := slot true s
  guardWindow true s (respond .ok (.busy (busyFlag r.2)) r.1)

/-- The read slot of `PARASITE_POWERED` (R117). -/
def readPower (s : State) : State :=
  let r := slot true s
  respond .ok (.parasite (parasiteFlag r.2)) r.1

/-- `PARASITE_POWERED T` (R117). -/
def execParasitePowered (t : Target) (s : State) : Host.Outcome State Fault Refusal :=
  guardWindow (resetReaches s) s (addressed t 0xB4#8 .parasite readPower s)

/-- The nine read bytes and the CRC check of `READ_SCRATCHPAD` (R118), with the two ways it ends left to the caller:
`READ_TEMPERATURE` runs the same body (44_temperature_decoder.md R127). -/
def readNine (kind : ResultKind) (ok : Scratchpad → Result) (s : State) : State :=
  let r := receiveBytes 9 s
  let sp := scratchpadOfBytes r.2
  if crc8 (scratchpadBody sp) = sp.crc then respond .ok (ok sp) r.1 else fail .integrityError kind r.1

/-- `READ_SCRATCHPAD T` (R118). -/
def execReadScratchpad (t : Target) (s : State) : Host.Outcome State Fault Refusal :=
  guardWindow (resetReaches s) s (addressed t 0xBE#8 .scratchpad (readNine .scratchpad .scratchpad) s)

/-- The payload of `WRITE_SCRATCHPAD`: high alarm, low alarm, and the configuration byte only for an address of a
programmable family (R119). -/
def scratchpadPayload (p : Params) (t : Target) (th tl cfg : Byte) : List Byte :=
  if takesConfig p t then [th, tl, cfg] else [th, tl]

/-- `WRITE_SCRATCHPAD T, th, tl, cfg` (R119). -/
def execWriteScratchpad (t : Target) (th tl cfg : Byte) (s : State) : Host.Outcome State Fault Refusal :=
  guardWindow (resetReaches s) s
    (addressed t 0x4E#8 .none (fun u => respond .ok .none (sendBytes (scratchpadPayload s.cfg t th tl cfg) u)) s)

/-- `COPY_SCRATCHPAD T` (R120). -/
def execCopyScratchpad (t : Target) (s : State) : Host.Outcome State Fault Refusal :=
  guardWindow (resetReaches s) s
    (addressed t 0x48#8 .none (fun u => respond .ok .none (namedDelay .copySettle u)) s)

/-- The poll loop of `RECALL_EEPROM` with `n` polls left: a sample of 1 is completion, a delay stands between two
polls and none after the last (R121). -/
def recallPoll : Nat → State → State
  | 0, s => fail .timeout .none s
  | n + 1, s =>
    let r := slot true s
    if r.2 then respond .ok .none r.1
    else recallPoll n (if n = 0 then r.1 else namedDelay .recallPoll r.1)

/-- `RECALL_EEPROM T` (R121). -/
def execRecallEeprom (t : Target) (s : State) : Host.Outcome State Fault Refusal :=
  guardWindow (resetReaches s) s
    (addressed t 0xB8#8 .none (recallPoll s.cfg.recallMaxPolls) s)

end Sys2Proof.Machine
end

