-- ==== Sys2Proof/Machine/Temperature.lean ====
section
/-! DEFINITION. The temperature decoder (44_temperature_decoder.md). -/

namespace Sys2Proof.Machine

/-- The raw 16-bit little-endian value of bytes 0 and 1 (20_memory.md R36, 30_encoding.md R74). -/
def rawTemperature (sp : Scratchpad) : Word16 := sp.tempLsb.setWidth 16 ||| (sp.tempMsb.setWidth 16 <<< 8)

/-- The family A step: `u16(((raw & 0xFFFE) << 3) + (sp[7] - sp[6]) - 4)`, in exact integers (R126, R128). -/
def legacyRaw (sp : Scratchpad) : Word16 :=
  BitVec.ofInt 16
    (((rawTemperature sp &&& 0xFFFE#16).toNat : Int) * 8 + ((sp.countPerC.toNat : Int) - (sp.countRemain.toNat : Int)) - 4)

/-- The step of the programmable families: the undefined low bits masked off (R126). -/
def progRaw (sp : Scratchpad) : Word16 := rawTemperature sp &&& resolutionMask (resolutionCode sp.config)

/-- The count of 1/16 degree as a 16-bit pattern, after the family step (R126). -/
def familyRaw : Variant → Scratchpad → Word16
  | .legacy, sp => legacyRaw sp
  | .prog, sp => progRaw sp

/-- `u16(t * 16)` with `t = signed16(raw)` (R126). -/
def toFixed (raw : Word16) : Word16 := BitVec.ofInt 16 (raw.toInt * 16)

/-- `Decode(fam, sp)` for a variant of the family (R126). -/
def decodeFixed (v : Variant) (sp : Scratchpad) : Word16 := toFixed (familyRaw v sp)

/-- `DECODE_TEMPERATURE fam, sp` (R126); refused for an unknown family (R125, 30_encoding.md R70 item 7). -/
def execDecodeTemperature (fam : Byte) (sp : Scratchpad) (s : State) : Host.Outcome State Fault Refusal :=
  match variantOf s.cfg fam with
  | none => .refused .unknownFamily
  | some v => .next (respond .ok (.temperature (decodeFixed v sp)) s)

/-- `READ_TEMPERATURE T` (R127): the body of `READ_SCRATCHPAD`, then the decode by the family of the target address;
refused for `BROADCAST` and for an unknown family, before any bus activity (30_encoding.md R70 items 6 and 7). -/
def execReadTemperature (t : Target) (s : State) : Host.Outcome State Fault Refusal :=
  match t with
  | .broadcast => .refused .noFamily
  | .address a =>
    match variantOf s.cfg (Sys2Proof.Address.byte a 0) with
    | none => .refused .unknownFamily
    | some v =>
      guardWindow (resetReaches s) s
        (addressed t 0xBE#8 .temperature (readNine .temperature (fun sp => .temperature (decodeFixed v sp))) s)

end Sys2Proof.Machine
end

