-- ==== Sys2Proof/Machine/Transport.lean ====
section
/-! DEFINITION. The meanings of the bus transport operations (40_bus_transport.md) and the two pseudo-instructions
(30_encoding.md R76). -/

namespace Sys2Proof.Machine

/-- `BUS_RESET` (R86). -/
def execBusReset (s : State) : Host.Outcome State Fault Refusal :=
  let r := resetPulse s
  guardWindow (resetReaches s) s (if r.2 then respond .ok .none r.1 else fail .busFault .none r.1)

/-- One slot and its sample as `bit_out` (R88). -/
def bitTransfer (b : Bool) (s : State) : Host.Outcome State Fault Refusal :=
  let r := slot b s
  guardWindow true s (respond .ok (.bit r.2) r.1)

/-- `WRITE_BIT b` (R88). -/
def execWriteBit (b : Bool) (s : State) : Host.Outcome State Fault Refusal := bitTransfer b s

/-- `READ_BIT` is `WRITE_BIT 1` (R76). -/
def execReadBit (s : State) : Host.Outcome State Fault Refusal := bitTransfer true s

/-- One byte transfer and the byte read back as `byte_out` (R91). -/
def byteTransfer (v : Byte) (s : State) : Host.Outcome State Fault Refusal :=
  let r := xferByte v s
  guardWindow true s (respond .ok (.byte r.2) r.1)

/-- `WRITE_BYTE v` (R91). -/
def execWriteByte (v : Byte) (s : State) : Host.Outcome State Fault Refusal := byteTransfer v s

/-- `READ_BYTE` is `WRITE_BYTE 0xFF` (R76). -/
def execReadByte (s : State) : Host.Outcome State Fault Refusal := byteTransfer 0xFF#8 s

/-- `ADDRESSED_COMMAND cmd, T` (R93). -/
def execAddressedCommand (cmd : Byte) (t : Target) (s : State) : Host.Outcome State Fault Refusal :=
  guardWindow (resetReaches s) s (addressed t cmd .none (respond .ok .none) s)

end Sys2Proof.Machine
end

