-- ==== Sys2Proof/Machine/Wire.lean ====
section
/-! DEFINITION. The meanings of the wire command bytes (30_encoding.md R71): "Each is sent with `XferByte`". As an
instruction of its own such a byte is that transfer, with the received byte discarded as in 40_bus_transport.md R92,
and no response, since it is no host request. Log entry 3. -/

namespace Sys2Proof.Machine

/-- Sends one command byte on the wire. -/
def wireCommand (byte : Byte) (s : State) : Host.Outcome State Fault Refusal :=
  guardWindow true s (xferByte byte s).1

/-- `W_SEARCH` (R71). -/
def execWSearch (s : State) : Host.Outcome State Fault Refusal := wireCommand 0xF0#8 s

/-- `W_MATCH` (R71). -/
def execWMatch (s : State) : Host.Outcome State Fault Refusal := wireCommand 0x55#8 s

/-- `W_SKIP` (R71). -/
def execWSkip (s : State) : Host.Outcome State Fault Refusal := wireCommand 0xCC#8 s

/-- `W_CONVERT` (R71). -/
def execWConvert (s : State) : Host.Outcome State Fault Refusal := wireCommand 0x44#8 s

/-- `W_WRITE_SCRATCHPAD` (R71). -/
def execWWriteScratchpad (s : State) : Host.Outcome State Fault Refusal := wireCommand 0x4E#8 s

/-- `W_READ_SCRATCHPAD` (R71). -/
def execWReadScratchpad (s : State) : Host.Outcome State Fault Refusal := wireCommand 0xBE#8 s

/-- `W_COPY_SCRATCHPAD` (R71). -/
def execWCopyScratchpad (s : State) : Host.Outcome State Fault Refusal := wireCommand 0x48#8 s

/-- `W_RECALL_EEPROM` (R71). -/
def execWRecallEeprom (s : State) : Host.Outcome State Fault Refusal := wireCommand 0xB8#8 s

/-- `W_READ_POWER_SUPPLY` (R71). -/
def execWReadPowerSupply (s : State) : Host.Outcome State Fault Refusal := wireCommand 0xB4#8 s

end Sys2Proof.Machine
end

