-- ==== Sys2Proof/Machine/Dispatch.lean ====
section
/-! DEFINITION. One arm per instruction, each a direct call of its meaning. -/

namespace Sys2Proof.Machine

/-- What an instruction does to the state. -/
def exec (i : Instr) (s : State) : Host.Outcome State Fault Refusal :=
  match i with
  | .busReset => Sys2Proof.Machine.execBusReset s
  | .writeBit b => Sys2Proof.Machine.execWriteBit b s
  | .writeByte v => Sys2Proof.Machine.execWriteByte v s
  | .addressedCommand cmd t => Sys2Proof.Machine.execAddressedCommand cmd t s
  | .crc8Update c v => Sys2Proof.Machine.execCrc8Update c v s
  | .crc8 bytes => Sys2Proof.Machine.execCrc8 bytes s
  | .crc8Check bytes => Sys2Proof.Machine.execCrc8Check bytes s
  | .searchReset => Sys2Proof.Machine.execSearchReset s
  | .search => Sys2Proof.Machine.execSearch s
  | .startConversion t => Sys2Proof.Machine.execStartConversion t s
  | .conversionInProgress => Sys2Proof.Machine.execConversionInProgress s
  | .parasitePowered t => Sys2Proof.Machine.execParasitePowered t s
  | .readScratchpad t => Sys2Proof.Machine.execReadScratchpad t s
  | .writeScratchpad t th tl cfg => Sys2Proof.Machine.execWriteScratchpad t th tl cfg s
  | .copyScratchpad t => Sys2Proof.Machine.execCopyScratchpad t s
  | .recallEeprom t => Sys2Proof.Machine.execRecallEeprom t s
  | .decodeTemperature fam sp => Sys2Proof.Machine.execDecodeTemperature fam sp s
  | .readTemperature t => Sys2Proof.Machine.execReadTemperature t s
  | .readBit => Sys2Proof.Machine.execReadBit s
  | .readByte => Sys2Proof.Machine.execReadByte s
  | .wSearch => Sys2Proof.Machine.execWSearch s
  | .wMatch => Sys2Proof.Machine.execWMatch s
  | .wSkip => Sys2Proof.Machine.execWSkip s
  | .wConvert => Sys2Proof.Machine.execWConvert s
  | .wWriteScratchpad => Sys2Proof.Machine.execWWriteScratchpad s
  | .wReadScratchpad => Sys2Proof.Machine.execWReadScratchpad s
  | .wCopyScratchpad => Sys2Proof.Machine.execWCopyScratchpad s
  | .wRecallEeprom => Sys2Proof.Machine.execWRecallEeprom s
  | .wReadPowerSupply => Sys2Proof.Machine.execWReadPowerSupply s

end Sys2Proof.Machine
end

