-- ==== Sys2Proof/Machine/Inputs.lean ====
section
/-! DEFINITION. What the outside world does to the block besides issuing instructions, and how an input is taken from
the queue. -/

namespace Sys2Proof.Machine

/-- Block reset (70_reset_and_hazards.md R151, 10_state.md R26): the registers take their reset values, with no bus
activity and `IE` unchanged. `CS_SAVED` is unspecified, a free value. Log entry 15. -/
def blockReset (s : State) : State :=
  { s with
    lineDrv := false
    csHeld := false
    csSaved := freeBit s.draws
    searchLd := 0xFF#8
    searchRom := 0#64
    draws := s.draws + 1 }

/-- The state after the next input is taken from the queue. -/
def takeInput (s : State) : State := { s with inputs := s.inputs.tail }

/-- The words of a table row put in front of the queue, where the next step takes them. -/
def pushFrame (f : Frame) (s : State) : State := { s with inputs := .frame f :: s.inputs }

end Sys2Proof.Machine
end

