-- ==== Sys2Proof/Machine/Step.lean ====
section
/-! DEFINITION. One step of the machine: the next input of the host, to its response. -/

namespace Sys2Proof.Machine

/-- One step: the controller "runs each one to completion before it accepts the next" (10_state.md R12, R18). With no
request it waits (70_reset_and_hazards.md R151). Words that are no instruction are refused (30_encoding.md R70). -/
def step (s : State) : Host.Outcome State Fault Refusal :=
  match s.inputs with
  | [] => .next s
  | .blockReset :: _ => .next (blockReset (takeInput s))
  | .frame f :: _ =>
    match decode f with
    | .ok i => exec i (takeInput s)
    | .error e => .refused (.malformed e)

/-- The state in which the next step runs the instruction of a word of spec/opcode_table.json: its words stand first
in the queue of requests. Log entries 1 and 2. -/
def State.withFetchWord (s : State) (nbits w : Nat) : State := pushFrame (tableFrame nbits w) s

end Sys2Proof.Machine
end

