-- ==== Sys2Proof/WellFormed.lean ====
section
/-! DEFINITION. Which instructions are well formed: the counts fit their byte (30_encoding.md R66), and the checks
of 30_encoding.md R70 items 5 to 7 hold. -/

namespace Sys2Proof

/-- The instruction fits its format: the count of a byte sequence is one byte (30_encoding.md R66, `SEQ`). -/
def Instr.fits : Instr → Bool
  | .crc8 bytes => decide (bytes.length ≤ 255)
  | .crc8Check bytes => decide (bytes.length ≤ 255)
  | _ => true

/-- 30_encoding.md R70 item 5 (`CRC8_CHECK` needs a check byte), item 6 (`READ_TEMPERATURE` needs an address) and
item 7 (the decode needs a known family). -/
def Instr.operandsOk (p : Params) : Instr → Bool
  | .crc8Check bytes => decide (bytes ≠ [])
  | .decodeTemperature fam _ => decide (p.Known fam)
  | .readTemperature .broadcast => false
  | .readTemperature (.address a) => decide (p.Known (Address.byte a 0))
  | _ => true

/-- A well-formed instruction, under the family codes of the machine. -/
def Instr.wellFormed (p : Params) (i : Instr) : Bool := i.fits && i.operandsOk p

end Sys2Proof
end

