-- ==== Sys2Proof/Safety.lean ====
section
/-! DEFINITION. The terms the statements use: the state between two operations, the invariant, what the events of a
run say about the environment, and what an operation leaves unchanged. -/

namespace Sys2Proof.Machine

/-! ### Between two operations -/

/-- Between two operations "`LINE_DRV = 0`, `CS_HELD = 0`" (10_state.md R24). -/
abbrev Quiet (s : State) : Prop := s.lineDrv = false ∧ s.csHeld = false

/-- The values that `SEARCH_LD` can hold: `DONE`, a position 1 to 64, or `FRESH` (10_state.md R15, R17). -/
abbrev SearchLegal (s : State) : Prop := s.searchLd.toNat ≤ 64 ∨ s.searchLd = 0xFF#8

/-- `SEARCH_LD = FRESH` comes with `SEARCH_ROM = 0` (10_state.md R16, R26), and a recorded position is one at which the
last search "took the 0 branch" (10_state.md R15). -/
abbrev SearchSound (s : State) : Prop :=
  (s.searchLd = 0xFF#8 → s.searchRom = 0#64) ∧
  (1 ≤ s.searchLd.toNat → s.searchLd.toNat ≤ 64 → addressBit s.searchRom s.searchLd.toNat = false)

/-- The invariant of the machine: quiet between operations (R24), legal search state (R15, R17) and parameters as R6
asks. -/
abbrev Inv (s : State) : Prop := Quiet s ∧ SearchLegal s ∧ SearchSound s ∧ s.cfg.Ok

/-! ### Events -/

/-- The sample an event stands for, with what it was taken for; none for a write-0 slot and a delay, which take no
sample (40_bus_transport.md R85, R87). -/
def Event.sample : Event → Option (SampleKind × Bool)
  | .precheck ok => some (.precheck, ok)
  | .reset presence => some (.presence, !presence)
  | .slot true r => some (.slot, r)
  | .slot false _ => none
  | .delay _ => none

/-- The answer that an environment has for a sample; none where it is a free draw (20_memory.md R32). -/
def Environment.answerTo (e : Environment) (k : SampleKind) : Option Bool :=
  match e with
  | .answers (a :: _) => some a
  | .answers [] => none
  | .reference bus => RefBus.answer bus k

/-- The environment after a sample. -/
def Environment.afterSample (p : Params) (e : Environment) (k : SampleKind) : Environment :=
  match e with
  | .answers as => .answers as.tail
  | .reference bus => .reference (RefBus.after p bus k)

/-- The environment after an event. -/
def Environment.afterEvent (p : Params) (e : Environment) (ev : Event) : Environment :=
  match ev with
  | .precheck _ => Environment.afterSample p e .precheck
  | .reset _ => Environment.afterSample p e .presence
  | .slot true _ => Environment.afterSample p e .slot
  | .slot false _ =>
    match e with
    | .answers as => .answers as
    | .reference bus => .reference (RefBus.slot p false bus)
  | .delay _ => e

/-- The environment after the events of a run, in order. -/
def Environment.afterEvents (p : Params) : Environment → List Event → Environment
  | e, [] => e
  | e, ev :: evs => Environment.afterEvents p (Environment.afterEvent p e ev) evs

/-- An event agrees with the environment: its sample is the environment's answer where there is one, and a write-0
slot reads 0 (20_memory.md R31, R32, 40_bus_transport.md R87). -/
def Environment.Allows (e : Environment) (ev : Event) : Prop :=
  (∀ r, ev = .slot false r → r = false) ∧
  (∀ k b a, ev.sample = some (k, b) → Environment.answerTo e k = some a → b = a)

/-- The events of a run agree with the environment, each where it stands in the order (20_memory.md R46). -/
def Environment.AllowsAll (p : Params) : Environment → List Event → Prop
  | _, [] => True
  | e, ev :: evs => Environment.Allows e ev ∧ Environment.AllowsAll p (Environment.afterEvent p e ev) evs

/-- Whether some event has a timed window, which runs in a critical section (60_exceptions.md R141). -/
def hasWindow (evs : List Event) : Bool :=
  evs.any fun ev =>
    match ev with
    | .reset _ => true
    | .slot _ _ => true
    | .precheck _ => false
    | .delay _ => false

/-- The slots of one byte transfer: bit by bit what was written and what was sampled (40_bus_transport.md R90). -/
def byteEvents (v r : Byte) : List Event := List.zipWith .slot (byteBits v) (byteBits r)

/-- The slots of the transfers of a list of bytes. -/
def bytesEvents : List Byte → List Byte → List Event
  | v :: vs, r :: rs => byteEvents v r ++ bytesEvents vs rs
  | _, _ => []

/-- The two events of a reset that saw presence (20_memory.md R33). -/
def resetOk : List Event := [.precheck true, .reset true]

/-- The events of a reset that failed: a line held low, or no presence (40_bus_transport.md R85). -/
def ResetFailed (evs : List Event) : Prop := evs = [.precheck false] ∨ evs = [.precheck true, .reset false]

/-- The environment answers a reset with presence: the line is high at the pre-check, and a device pulls it low at the
presence sample (40_bus_transport.md R85). -/
abbrev BusAlive (s : State) : Prop :=
  Environment.answerTo s.env .precheck = some true ∧
  Environment.answerTo (Environment.afterSample s.cfg s.env .precheck) .presence = some false

/-! ### Frames -/

/-- From `s` to `t` the machine performed exactly the events `evs` and returned exactly the responses `rs`, and is
between two operations again: the line is released, no critical section is held, `IE` is as before (10_state.md R24),
`CS_SAVED` is written only by a critical section (60_exceptions.md R141), the requests and the parameters are
unchanged, and the environment moved on by those events alone. The search state is not spoken of here. -/
structure Ran (s t : State) (evs : List Event) (rs : List Response) : Prop where
  history : t.history = s.history ++ evs
  responses : t.responses = s.responses ++ rs
  lineDrv : t.lineDrv = false
  csHeld : t.csHeld = false
  ie : t.ie = s.ie
  csSaved : t.csSaved = if hasWindow evs then s.ie else s.csSaved
  inputs : t.inputs = s.inputs
  cfg : t.cfg = s.cfg
  env : t.env = Environment.afterEvents s.cfg s.env evs
  allowed : Environment.AllowsAll s.cfg s.env evs

/-- The search state is unchanged (10_state.md R17). -/
def KeepsSearch (s t : State) : Prop := t.searchLd = s.searchLd ∧ t.searchRom = s.searchRom

/-- An addressed operation ran (40_bus_transport.md R92, R93): either its reset failed, nothing was sent, and `failed`
holds of its responses; or the bytes that select the target and the command byte were sent after the reset, then came
the events of its payload, and `done` holds of the payload and the responses. -/
def RanAddressed (s t : State) (target : Target) (command : Byte) (failed : List Response → Prop)
    (done : List Event → List Response → Prop) : Prop :=
  KeepsSearch s t ∧
  ((∃ evs rs, ResetFailed evs ∧ Ran s t evs rs ∧ failed rs) ∨
   (∃ got payload rs, got.length = (selectBytes target).length + 1 ∧
      Ran s t (resetOk ++ bytesEvents (selectBytes target ++ [command]) got ++ payload) rs ∧ done payload rs))

/-! ### What each operation returns -/

/-- The wire command bytes, which are no host requests and return no response (30_encoding.md R71, log entry 3). -/
def Instr.isWire : Instr → Bool
  | .wSearch => true
  | .wMatch => true
  | .wSkip => true
  | .wConvert => true
  | .wWriteScratchpad => true
  | .wReadScratchpad => true
  | .wCopyScratchpad => true
  | .wRecallEeprom => true
  | .wReadPowerSupply => true
  | _ => false

/-- The instructions that open with a bus reset (60_exceptions.md R131, row `BUS_FAULT`). -/
def Instr.opensWithReset : Instr → Bool
  | .busReset => true
  | .addressedCommand _ _ => true
  | .search => true
  | .startConversion _ => true
  | .parasitePowered _ => true
  | .readScratchpad _ => true
  | .writeScratchpad _ _ _ _ => true
  | .copyScratchpad _ => true
  | .recallEeprom _ => true
  | .readTemperature _ => true
  | _ => false

/-- The instructions that a failed reset alone keeps from `OK` (60_exceptions.md R131). -/
def Instr.failsOnlyAtReset : Instr → Bool
  | .busReset => true
  | .addressedCommand _ _ => true
  | .startConversion _ => true
  | .parasitePowered _ => true
  | .writeScratchpad _ _ _ _ => true
  | .copyScratchpad _ => true
  | _ => false

/-- Whether 60_exceptions.md R131 lists an operation as one that returns a status. `OK` is open to all. -/
def Instr.mayReturn (i : Instr) (st : Status) : Bool :=
  match st with
  | .ok => true
  | .busFault => Instr.opensWithReset i
  | .protocolDesync => decide (i = .search)
  | .integrityError =>
    match i with
    | .readScratchpad _ => true
    | .readTemperature _ => true
    | .crc8Check _ => true
    | _ => false
  | .timeout =>
    match i with
    | .recallEeprom _ => true
    | _ => false
  | .done => decide (i = .search)

/-- The number of result bytes that 30_encoding.md R69 gives a host operation (field sizes of 10_state.md R22). -/
def Instr.resultBytes : Instr → Nat
  | .writeBit _ => 1
  | .readBit => 1
  | .writeByte _ => 1
  | .readByte => 1
  | .crc8Update _ _ => 1
  | .crc8 _ => 1
  | .search => 9
  | .conversionInProgress => 1
  | .parasitePowered _ => 1
  | .readScratchpad _ => 9
  | .decodeTemperature _ _ => 2
  | .readTemperature _ => 2
  | _ => 0

/-! ### CRC and search, said another way -/

/-- One bit of a bit-serial CRC register with the reflected polynomial 0x31 (41_crc8_checker.md R100). -/
def crcSerial (c : Byte) (bit : Bool) : Byte :=
  if (c.getLsbD 0 ^^ bit) then (c >>> 1) ^^^ 0x8C#8 else c >>> 1

/-- One position of a search walk: the two samples, the bit written, and what its slot sampled
(42_device_search_engine.md R109). -/
structure Visit where
  a : Bool
  b : Bool
  d : Bool
  r : Bool
  deriving DecidableEq, Repr

/-- The three slots of a position. -/
def Visit.events (v : Visit) : List Event := [.slot true v.a, .slot true v.b, .slot v.d v.r]

/-- The slots of the positions visited, in order. -/
def visitEvents : List Visit → List Event
  | [] => []
  | v :: vs => v.events ++ visitEvents vs

/-- The bit that 42_device_search_engine.md R108 chooses at position `p` when the pair is not (1,1). -/
def chosenBit (ldc : Nat) (prev : Address) (p : Nat) (v : Visit) : Bool :=
  if v.a ≠ v.b then v.a else if p < ldc then prev.getLsbD (p - 1) else decide (p = ldc)

/-- Every position visited, from `p` on, had a pair other than (1,1) and got the chosen bit (R108, R109). -/
def WalksFrom (ldc : Nat) (prev : Address) : Nat → List Visit → Prop
  | _, [] => True
  | p, v :: vs => (v.a && v.b) = false ∧ v.d = chosenBit ldc prev p v ∧ WalksFrom ldc prev (p + 1) vs

/-- The deepest position, counted from `p` on, at which the pair was (0,0) and the bit written was 0; `lz` if there is
none (42_device_search_engine.md R108, R109). -/
def deepestZero (lz p : Nat) : List Visit → Nat
  | [] => lz
  | v :: vs => deepestZero (if v.a = false ∧ v.b = false ∧ v.d = false then p else lz) (p + 1) vs

/-- `a` comes before `b` in the order of the bit string `A[0] A[1] .. A[63]` read with 0 before 1
(42_device_search_engine.md R112). -/
def WireBefore (a b : Address) : Prop :=
  ∃ k, k < 64 ∧ a.getLsbD k = false ∧ b.getLsbD k = true ∧ ∀ j, j < k → a.getLsbD j = b.getLsbD j

/-- Parameters that differ in the `T_*` at most (00_scope.md R6). -/
abbrev SameButTiming (p q : Params) : Prop :=
  p.familyA = q.familyA ∧ p.familyB = q.familyB ∧ p.familyC = q.familyC ∧ p.recallMaxPolls = q.recallMaxPolls

/-- Runs instructions in order; none if one is refused. -/
def runInstrs : List Instr → State → Option State
  | [], s => some s
  | i :: is, s =>
    match exec i s with
    | .next t => runInstrs is t
    | .fault _ => none
    | .refused _ => none

end Sys2Proof.Machine
end

