-- ==== Sys2Proof/Certificates/Slice0/Obligations.lean ====
section
/-! DEFINITION. The statements for the provers. Each docstring names the rules of spec/ it formalises. -/

open Sys2Proof Sys2Proof.Machine

/-! ### Encoding -/

/-- 30_encoding.md R66, R67, R69, R71, R76: decoding the words of an instruction that fits its format gives the
instruction back, every operand at every value. `WRITE_BIT 1` and `WRITE_BYTE 0xFF` come back under the names of their
pseudo-instructions, which have the same words (the model's choice of name, log entry 4). -/
def Obligations.DecodeEncodeGivesBackEveryInstruction : Prop :=
  ∀ i : Instr, i.fits = true → decode (encode i) = .ok i.canon

/-- 30_encoding.md R66 to R71: the words that decode to an instruction are exactly its encoding. So no two different
requests mean the same instruction, and no byte of a request is ignored. -/
def Obligations.DecodedWordsAreTheEncoding : Prop :=
  ∀ (f : Frame) (i : Instr), decode f = .ok i → encode i = f ∧ i.fits = true ∧ i.canon = i

/-- Words written out from 30_encoding.md R66, R67, R69 and R71, as in 95_test_vectors.md V-T13, V-C1, V-P16, V-D1. -/
def Obligations.WrittenOutWordsDecode : Prop :=
  decode (.request [0x03#8, 0x44#8, 0x01#8, 0x28#8, 0xA1#8, 0x00#8, 0x00#8, 0x00#8, 0x00#8, 0x00#8, 0x75#8]) =
      .ok (.addressedCommand 0x44#8 (.address 0x750000000000A128#64)) ∧
    decode (.request [0x04#8, 0x00#8, 0x01#8]) = .ok (.crc8Update 0x00#8 0x01#8) ∧
    decode (.request [0x08#8]) = .ok .search ∧
    decode (.request [0x0D#8, 0x00#8, 0x1E#8, 0x0A#8, 0x1F#8]) =
      .ok (.writeScratchpad .broadcast 0x1E#8 0x0A#8 0x1F#8) ∧
    decode (.request [0x10#8, 0x28#8, 0x91#8, 0x01#8, 0x4B#8, 0x46#8, 0x7F#8, 0xFF#8, 0x0C#8, 0x10#8, 0x70#8]) =
      .ok (.decodeTemperature 0x28#8 ⟨0x91#8, 0x01#8, 0x4B#8, 0x46#8, 0x7F#8, 0xFF#8, 0x0C#8, 0x10#8, 0x70#8⟩) ∧
    decode (.wire 0xBE#8) = .ok .wReadScratchpad

/-- 30_encoding.md R70 items 1 to 4 (10_state.md R18): a request with an unassigned op, a bad bit operand, a bad target
tag or a wrong length is refused by the step. A refusal has no next state, so no bus activity and no state change. -/
def Obligations.MalformedRequestsAreRefused : Prop :=
  ∀ (s : State) (bytes : List Byte) (rest : List Input), s.inputs = .frame (.request bytes) :: rest →
    (bytes = [] → step s = .refused (.malformed .wrongLength)) ∧
    (∀ op ops, bytes = op :: ops → 0x12 ≤ op.toNat → step s = .refused (.malformed .unassignedOp)) ∧
    (∀ b, bytes = [0x01#8, b] → b ≠ 0x00#8 → b ≠ 0x01#8 → step s = .refused (.malformed .badBitOperand)) ∧
    (∀ op tag ops, bytes = op :: tag :: ops →
      op ∈ [0x09#8, 0x0B#8, 0x0C#8, 0x0D#8, 0x0E#8, 0x0F#8, 0x11#8] → tag ≠ 0x00#8 → tag ≠ 0x01#8 →
      step s = .refused (.malformed .badTargetTag)) ∧
    (∀ cmd tag ops, bytes = 0x03#8 :: cmd :: tag :: ops → tag ≠ 0x00#8 → tag ≠ 0x01#8 →
      step s = .refused (.malformed .badTargetTag)) ∧
    (∀ op ops, bytes = op :: ops → op.toNat < 0x12 → bytes.length ≠ requestLength bytes →
      ∃ why, step s = .refused (.malformed why))

/-- 30_encoding.md R70 items 5 to 7, 44_temperature_decoder.md R125: the three operand checks, which the meanings
make, in every state. -/
def Obligations.BadOperandsAreRefused : Prop :=
  ∀ s : State,
    exec (.crc8Check []) s = .refused .noCheckByte ∧
    exec (.readTemperature .broadcast) s = .refused .noFamily ∧
    (∀ fam sp, ¬ s.cfg.Known fam → exec (.decodeTemperature fam sp) s = .refused .unknownFamily) ∧
    (∀ a, ¬ s.cfg.Known (Address.byte a 0) → exec (.readTemperature (.address a)) s = .refused .unknownFamily)

/-- 30_encoding.md R76: a pseudo-instruction does what its expansion does. -/
def Obligations.PseudoInstructionsAreTheirExpansions : Prop :=
  ∀ s : State, exec .readBit s = exec (.writeBit true) s ∧ exec .readByte s = exec (.writeByte 0xFF#8) s

/-! ### The machine -/

/-- 10_state.md R12, R18: the step takes the next request and runs its instruction to completion; words that the
decoder rejects are refused by the reason it gives. -/
def Obligations.StepRunsTheDecodedInstruction : Prop :=
  ∀ (s : State) (f : Frame) (rest : List Input), s.inputs = .frame f :: rest →
    (∀ i, decode f = .ok i → step s = exec i { s with inputs := rest }) ∧
    (∀ why, decode f = .error why → step s = .refused (.malformed why))

/-- 70_reset_and_hazards.md R151: with no request the block waits (log entry 14); a block reset gives the registers the
values of 10_state.md R26, with no bus activity and `IE` unchanged (what else stays is log entry 15). -/
def Obligations.StepWaitsAndResets : Prop :=
  ∀ s : State,
    (s.inputs = [] → step s = .next s) ∧
    (∀ rest, s.inputs = .blockReset :: rest → ∃ t, step s = .next t ∧
      t.lineDrv = false ∧ t.csHeld = false ∧ t.searchLd = 0xFF#8 ∧ t.searchRom = 0#64 ∧ t.ie = s.ie ∧
      t.history = s.history ∧ t.responses = s.responses ∧ t.env = s.env ∧ t.cfg = s.cfg ∧ t.inputs = rest)

/-- 10_state.md R26: the values of the block's registers at reset, and the invariant. -/
def Obligations.ResetStateHasTheInvariant : Prop :=
  Inv State.reset ∧ State.reset.searchLd = 0xFF#8 ∧ State.reset.searchRom = 0#64 ∧
    State.reset.history = [] ∧ State.reset.responses = []

/-- 10_state.md R15, R17, R24 and 00_scope.md R6: every step keeps the invariant, from every state that meets it. -/
def Obligations.StepKeepsTheInvariant : Prop :=
  ∀ s t : State, Inv s → step s = .next t → Inv t

/-- Every well-formed instruction completes, from every state between two operations: none is refused (30_encoding.md
R70 gives the only refusals; 60_exceptions.md R130: nothing traps). -/
def Obligations.WellFormedInstructionsComplete : Prop :=
  ∀ (i : Instr) (s : State), Quiet s → i.wellFormed s.cfg = true → ∃ t, exec i s = .next t

/-- 10_state.md R13, R14, R19, R24, 20_memory.md R31 to R33: whatever the operation and its outcome, it performs some
bus events that agree with the environment, returns exactly one response (a wire command byte: none), and leaves the
line released, no critical section held, `IE` restored, and the requests and parameters as they were. -/
def Obligations.OperationsRunToOneResponse : Prop :=
  ∀ (i : Instr) (s t : State), Quiet s → exec i s = .next t →
    ∃ evs rs, Ran s t evs rs ∧ rs.length = if Instr.isWire i then 0 else 1

/-- 10_state.md R17: the search state is changed by `SEARCH_RESET` and by a `SEARCH` that returns `OK`, and by nothing
else. -/
def Obligations.OnlySearchChangesTheSearchState : Prop :=
  ∀ (i : Instr) (s t : State), Quiet s → exec i s = .next t → ¬ KeepsSearch s t →
    i = .searchReset ∨ (i = .search ∧ ∃ result, t.responses = s.responses ++ [⟨.ok, result⟩])

/-- 60_exceptions.md R131, R132: which statuses each operation returns. -/
def Obligations.StatusesOfEachOperation : Prop :=
  ∀ (i : Instr) (s t : State) (r : Response), Quiet s → exec i s = .next t →
    t.responses = s.responses ++ [r] → Instr.mayReturn i r.status = true

/-- 30_encoding.md R68, R69, 10_state.md R20: the bytes of a response are the code of its status, then its result fields,
least significant byte first: `addr_out` byte 0 first and then `has_more`, `sp_out[0]` first, `temp_out` low byte first, a flag
as 0x00 or 0x01. "Every response of one operation has the same length", on success and on failure. -/
def Obligations.ResponsesHaveTheirLength : Prop :=
  (∀ result,
    Response.bytes ⟨.ok, result⟩ = 0x00#8 :: Result.bytes result ∧
    Response.bytes ⟨.busFault, result⟩ = 0x01#8 :: Result.bytes result ∧
    Response.bytes ⟨.protocolDesync, result⟩ = 0x02#8 :: Result.bytes result ∧
    Response.bytes ⟨.integrityError, result⟩ = 0x03#8 :: Result.bytes result ∧
    Response.bytes ⟨.timeout, result⟩ = 0x04#8 :: Result.bytes result ∧
    Response.bytes ⟨.done, result⟩ = 0x05#8 :: Result.bytes result) ∧
  Result.bytes .none = [] ∧
  (∀ b, Result.bytes (.bit b) = [if b then 0x01#8 else 0x00#8] ∧
    Result.bytes (.busy b) = [if b then 0x01#8 else 0x00#8] ∧
    Result.bytes (.parasite b) = [if b then 0x01#8 else 0x00#8]) ∧
  (∀ v, Result.bytes (.byte v) = [v] ∧ Result.bytes (.crc v) = [v]) ∧
  (∀ b0 b1 b2 b3 b4 b5 b6 b7 more, Result.bytes (.found (addressOfBytes b0 b1 b2 b3 b4 b5 b6 b7) more) =
    [b0, b1, b2, b3, b4, b5, b6, b7, if more then 0x01#8 else 0x00#8]) ∧
  (∀ b0 b1 b2 b3 b4 b5 b6 b7 b8, Result.bytes (.scratchpad ⟨b0, b1, b2, b3, b4, b5, b6, b7, b8⟩) =
    [b0, b1, b2, b3, b4, b5, b6, b7, b8]) ∧
  (∀ high low : Byte, Result.bytes (.temperature (high ++ low)) = [low, high]) ∧
  ∀ (i : Instr) (s t : State) (r : Response), Quiet s → exec i s = .next t →
    t.responses = s.responses ++ [r] → (Response.bytes r).length = 1 + Instr.resultBytes i

/-- 60_exceptions.md R141 (93_implementation_defined.md U10): from a state inside a critical section, no operation opens
another. The operations of one slot or byte are refused; any other that completes performed no timed window and left
`IE` alone. That the refusal falls on the whole operation is log entry 11. -/
def Obligations.CriticalSectionsDoNotNest : Prop :=
  ∀ s : State, s.csHeld = true →
    (∀ i : Instr, Instr.isWire i = true ∨ i = .conversionInProgress ∨ (∃ b, i = .writeBit b) ∨ (∃ v, i = .writeByte v) ∨
        i = .readBit ∨ i = .readByte → exec i s = .refused .nestedCriticalSection) ∧
    (∀ (i : Instr) (t : State), exec i s = .next t →
      t.ie = s.ie ∧ ∃ evs, t.history = s.history ++ evs ∧ hasWindow evs = false)

/-- 60_exceptions.md R141, 40_bus_transport.md R85, R87: `CS_Enter` saves `IE` and masks it, `CS_Exit` restores it, and each
timed window lies between the two: both slots, and the presence sample of a reset. In a slot the line is driven low inside the
critical section and released in it, in a reset it is released inside it; there the write-1 slot and the reset take their
sample and the write-0 slot takes none, with `CS_HELD` 1, `IE` masked and `CS_SAVED` holding it. After each, `IE` is as before
and the critical section is left. The delays between change no state (R140). -/
def Obligations.SlotsSampleInsideACriticalSection : Prop :=
  ∀ s : State,
    (csEnter s).csSaved = s.ie ∧ (csEnter s).ie = false ∧ (csEnter s).csHeld = true ∧
    (csExit (csEnter s)).ie = s.ie ∧ (csExit (csEnter s)).csHeld = false ∧
    (∀ u, u = lineRelease (lineDriveLow (csEnter s)) →
      slotWindow true s = lineSample .slot u ∧ slotWindow false s = (envWriteZero u, false) ∧
      u.lineDrv = false ∧ u.csHeld = true ∧ u.ie = false ∧ u.csSaved = s.ie) ∧
    (slotWindow false s).1.lineDrv = false ∧ (slotWindow false s).1.csHeld = true ∧ (slotWindow false s).1.ie = false ∧
    (∀ w, slot w s = (record (.slot w (slotWindow w s).2) (csExit (slotWindow w s).1), (slotWindow w s).2) ∧
      (slot w s).1.ie = s.ie ∧ (slot w s).1.csHeld = false) ∧
    (∀ u, u = lineRelease (csEnter (lineDriveLow s)) →
      presencePulse s = (record (.reset (!(lineSample .presence u).2)) (csExit (lineSample .presence u).1),
        !(lineSample .presence u).2) ∧
      u.lineDrv = false ∧ u.csHeld = true ∧ u.ie = false ∧ u.csSaved = s.ie) ∧
    (presencePulse s).1.ie = s.ie ∧ (presencePulse s).1.csHeld = false

/-- 20_memory.md R31, R32: a sample taken while the block drives the line low reads 0 and asks the environment nothing;
any other is the environment's answer where it has one. -/
def Obligations.SamplesObeyTheLine : Prop :=
  ∀ (k : SampleKind) (s : State),
    (s.lineDrv = true → lineSample k s = (s, false)) ∧
    (s.lineDrv = false → ∀ a, Environment.answerTo s.env k = some a → (lineSample k s).2 = a)

/-! ### Bus transport -/

/-- 40_bus_transport.md R85, R86: `BUS_RESET` is one reset, and its status says whether presence was seen. The line held
low and no presence give the same response (R95). -/
def Obligations.BusResetReportsPresence : Prop :=
  ∀ s : State, Quiet s → ∃ t, exec .busReset s = .next t ∧ KeepsSearch s t ∧
    ((∃ evs, ResetFailed evs ∧ Ran s t evs [⟨.busFault, .none⟩]) ∨ Ran s t resetOk [⟨.ok, .none⟩])

/-- 40_bus_transport.md R87, R88, 30_encoding.md R76: `WRITE_BIT b` is one slot, always `OK`, and `bit_out` is its
sample, 0 for a write-0 slot; `READ_BIT` is `WRITE_BIT 1`. -/
def Obligations.WriteBitIsOneSlot : Prop :=
  ∀ (s : State) (b : Bool) (i : Instr), Quiet s → (i = .writeBit b ∨ (b = true ∧ i = .readBit)) →
    ∃ r t, exec i s = .next t ∧ KeepsSearch s t ∧ Ran s t [.slot b r] [⟨.ok, .bit r⟩] ∧ (b = false → r = false)

/-- 40_bus_transport.md R90, R91, 30_encoding.md R76: `WRITE_BYTE v` is eight slots, least significant bit first, always
`OK`; `byte_out` is what they sampled, and every bit written 0 reads 0. `READ_BYTE` is `WRITE_BYTE 0xFF`. -/
def Obligations.WriteByteIsEightSlots : Prop :=
  ∀ (s : State) (v : Byte) (i : Instr), Quiet s → (i = .writeByte v ∨ (v = 0xFF#8 ∧ i = .readByte)) →
    ∃ r t, exec i s = .next t ∧ KeepsSearch s t ∧ Ran s t (byteEvents v r) [⟨.ok, .byte r⟩] ∧ r &&& ~~~v = 0#8

/-- 40_bus_transport.md R92, R93: `ADDRESSED_COMMAND cmd, T` resets, selects the target and sends any command byte; if
the reset fails it sends nothing and reports `BUS_FAULT`. -/
def Obligations.AddressedCommandSendsItsByte : Prop :=
  ∀ (s : State) (cmd : Byte) (target : Target), Quiet s → ∃ t, exec (.addressedCommand cmd target) s = .next t ∧
    RanAddressed s t target cmd (fun rs => rs = [⟨.busFault, .none⟩]) (fun payload rs => payload = [] ∧ rs = [⟨.ok, .none⟩])

/-- 40_bus_transport.md R92, 20_memory.md R35, 30_encoding.md R71: the bytes that select a target. -/
def Obligations.SelectionBytesOfTargets : Prop :=
  selectBytes .broadcast = [0xCC#8] ∧
    ∀ b0 b1 b2 b3 b4 b5 b6 b7 : Byte,
      selectBytes (.address (addressOfBytes b0 b1 b2 b3 b4 b5 b6 b7)) = [0x55#8, b0, b1, b2, b3, b4, b5, b6, b7]

/-- 30_encoding.md R71: each wire command byte is sent with `XferByte`, eight slots least significant bit first. That a
byte of the wire layer can be issued by itself, and returns no response, is the model's choice (log entry 3). -/
def Obligations.WireCommandBytesAreSent : Prop :=
  ∀ (s : State) (i : Instr) (byte : Byte), Quiet s →
    (i, byte) ∈ [(Instr.wSearch, 0xF0#8), (.wMatch, 0x55#8), (.wSkip, 0xCC#8), (.wConvert, 0x44#8),
      (.wWriteScratchpad, 0x4E#8), (.wReadScratchpad, 0xBE#8), (.wCopyScratchpad, 0x48#8), (.wRecallEeprom, 0xB8#8),
      (.wReadPowerSupply, 0xB4#8)] →
    ∃ r t, exec i s = .next t ∧ KeepsSearch s t ∧ Ran s t (byteEvents byte r) []

/-! ### CRC-8 -/

/-- 41_crc8_checker.md R100 to R102: `CRC8_UPDATE` and `CRC8` complete in every state, touch nothing but the response, and
return what a bit-serial register with the reflected polynomial computes from the bits in wire order. -/
def Obligations.Crc8IsTheBitSerialRegister : Prop :=
  ∀ s : State,
    (∀ c v, exec (.crc8Update c v) s =
      .next { s with responses := s.responses ++ [⟨.ok, .crc ((byteBits v).foldl crcSerial c)⟩] }) ∧
    (∀ bytes, exec (.crc8 bytes) s =
      .next { s with responses := s.responses ++ [⟨.ok, .crc ((bytesBits bytes).foldl crcSerial 0x00#8)⟩] })

/-- 41_crc8_checker.md R102 (derived there): a sequence followed by its own CRC has CRC 0. -/
def Obligations.Crc8OfASequenceWithItsCrcIsZero : Prop :=
  ∀ (bytes : List Byte) (s t : State) (c : Byte), exec (.crc8 bytes) s = .next t →
    t.responses = s.responses ++ [⟨.ok, .crc c⟩] →
    ∃ u, exec (.crc8 (bytes ++ [c])) s = .next u ∧ u.responses = s.responses ++ [⟨.ok, .crc 0x00#8⟩]

/-- 41_crc8_checker.md R101 (derived there): from one running CRC, two different next bytes never give the same CRC; nor
does one byte from two different running CRCs. -/
def Obligations.Crc8UpdateTellsBytesApart : Prop :=
  ∀ (c c' v v' : Byte) (s : State), exec (.crc8Update c v) s = exec (.crc8Update c' v') s →
    (c = c' → v = v') ∧ (v = v' → c = c')

/-- 41_crc8_checker.md R103: in every state, `CRC8_CHECK` answers `OK` exactly when the CRC of all bytes but the last is the
last byte, and `INTEGRITY_ERROR` otherwise, and touches nothing but the response (and the model's counter of free values);
with no byte it is refused. -/
def Obligations.Crc8CheckComparesTheLastByte : Prop :=
  ∀ s : State,
    (∀ (bytes : List Byte) (check : Byte), ∃ n,
      exec (.crc8Check (bytes ++ [check])) s = .next { s with
        responses := s.responses ++
          [⟨if (bytesBits bytes).foldl crcSerial 0x00#8 = check then .ok else .integrityError, .none⟩],
        draws := n }) ∧
    exec (.crc8Check []) s = .refused .noCheckByte

/-- 41_crc8_checker.md R104: replacing any one byte of a sequence that passes `CRC8_CHECK` makes it fail. -/
def Obligations.SingleByteCorruptionIsDetected : Prop :=
  ∀ (before after : List Byte) (good bad : Byte) (s t : State), good ≠ bad →
    exec (.crc8Check (before ++ good :: after)) s = .next t → t.responses = s.responses ++ [⟨.ok, .none⟩] →
    ∃ u, exec (.crc8Check (before ++ bad :: after)) s = .next u ∧
      u.responses = s.responses ++ [⟨.integrityError, .none⟩]

/-- 41_crc8_checker.md R106: zero bytes have CRC 0 and pass the check; a line held low through a whole
`READ_SCRATCHPAD`, after a reset that saw presence, reads as a valid scratchpad of zeros. -/
def Obligations.AllZeroSequencesPass : Prop :=
  ∀ (n : Nat) (s : State),
    exec (.crc8 (List.replicate n 0x00#8)) s = .next { s with responses := s.responses ++ [⟨.ok, .crc 0x00#8⟩] } ∧
    exec (.crc8Check (List.replicate (n + 1) 0x00#8)) s = .next { s with responses := s.responses ++ [⟨.ok, .none⟩] } ∧
    ∀ target, Quiet s → 152 ≤ n → s.env = .answers (true :: false :: List.replicate n false) →
      ∃ t, exec (.readScratchpad target) s = .next t ∧
        t.responses = s.responses ++ [⟨.ok, .scratchpad ⟨0, 0, 0, 0, 0, 0, 0, 0, 0⟩⟩]

/-! ### Search -/

/-- 42_device_search_engine.md R107: `SEARCH_RESET` sets `SEARCH_LD` to `FRESH` and `SEARCH_ROM` to 0 and touches nothing
else but the response. -/
def Obligations.SearchResetStartsAfresh : Prop :=
  ∀ s : State, exec .searchReset s =
    .next { s with searchLd := 0xFF#8, searchRom := 0#64, responses := s.responses ++ [⟨.ok, .none⟩] }

/-- 42_device_search_engine.md R109, 60_exceptions.md R133: with `SEARCH_LD = DONE` a `SEARCH` returns `DONE` with no bus
activity, in every state. Its result fields are free values. -/
def Obligations.SearchWhenDoneTouchesNothing : Prop :=
  ∀ s : State, s.searchLd = 0x00#8 → ∃ addr more n, exec .search s =
    .next { s with responses := s.responses ++ [⟨.done, .found addr more⟩], draws := n }

/-- 42_device_search_engine.md R108, R109: the three courses of a `SEARCH` that is not done. The reset failed; or after
the search directive the walk visited fewer than 64 positions, each with the bit R108 chooses, and then met the (1,1)
pair; or it visited all 64, and the address is the bits written, `SEARCH_LD` the deepest (0,0) position written 0. -/
def Obligations.SearchWalksTheTree : Prop :=
  ∀ s : State, Quiet s → s.searchLd ≠ 0x00#8 → ∃ t, exec .search s = .next t ∧
    ((∃ evs addr more, ResetFailed evs ∧ Ran s t evs [⟨.busFault, .found addr more⟩] ∧ KeepsSearch s t) ∨
     (∃ got vs addr more, vs.length < 64 ∧ WalksFrom (comparisonValue s.searchLd) s.searchRom 1 vs ∧
        Ran s t (resetOk ++ byteEvents 0xF0#8 got ++ visitEvents vs ++ [.slot true true, .slot true true])
          [⟨.protocolDesync, .found addr more⟩] ∧ KeepsSearch s t) ∨
     (∃ got vs, vs.length = 64 ∧ WalksFrom (comparisonValue s.searchLd) s.searchRom 1 vs ∧
        Ran s t (resetOk ++ byteEvents 0xF0#8 got ++ visitEvents vs)
          [⟨.ok, .found t.searchRom (decide (deepestZero 0 1 vs ≠ 0))⟩] ∧
        t.searchLd.toNat = deepestZero 0 1 vs ∧
        ∀ k (h : k < vs.length), t.searchRom.getLsbD k = vs[k].d))

/-- 42_device_search_engine.md R110: "A failed search changes no state": a `SEARCH` that returns `DONE`, `BUS_FAULT` or
`PROTOCOL_DESYNC` leaves `SEARCH_LD` and `SEARCH_ROM` as they were. -/
def Obligations.FailedSearchKeepsTheSearchState : Prop :=
  ∀ (s t : State) (r : Response), Quiet s → exec .search s = .next t → t.responses = s.responses ++ [r] →
    r.status ≠ .ok → KeepsSearch s t

/-- 42_device_search_engine.md R111: `has_more` is 1 exactly when a position was recorded, and after `has_more = 0` the
next `SEARCH` returns `DONE` without touching the bus. -/
def Obligations.HasMoreTellsWhetherTheNextSearchIsDone : Prop :=
  ∀ (s t : State) (addr : Address) (more : Bool), Quiet s → exec .search s = .next t →
    t.responses = s.responses ++ [⟨.ok, .found addr more⟩] →
    t.searchRom = addr ∧ (more = true ↔ t.searchLd ≠ 0x00#8) ∧
    (more = false → ∃ u r, exec .search t = .next u ∧ u.responses = t.responses ++ [r] ∧ r.status = .done ∧
      u.history = t.history ∧ KeepsSearch t u)

/-- 42_device_search_engine.md R112: on a bus of devices with pairwise distinct addresses, `SEARCH_RESET` and then
`SEARCH` calls return every device's address exactly once, in ascending order of the bit string, with `has_more` 1 for
all but the last, and then `DONE`. The environment premise is the reference environment of 20_memory.md R39, R40. -/
def Obligations.EnumerationVisitsEveryDeviceOnce : Prop :=
  ∀ (s : State) (bus : RefBus) (order : List Address), Quiet s → s.env = .reference bus → bus.short = false →
    order ≠ [] → order.Perm (bus.devices.map Device.rom) → order.Pairwise WireBefore →
    ∃ t addr more, runInstrs (.searchReset :: List.replicate (order.length + 1) .search) s = some t ∧
      t.responses = s.responses ++ [⟨.ok, .none⟩] ++
        order.mapIdx (fun k a => ⟨.ok, .found a (decide (k + 1 < order.length))⟩) ++ [⟨.done, .found addr more⟩]

/-- 42_device_search_engine.md R113: one device is returned by the first `SEARCH` from `FRESH`, which signals completion;
an empty bus gives `BUS_FAULT` after the reset with no slot. -/
def Obligations.SingleDeviceAndEmptyBus : Prop :=
  ∀ (s : State) (bus : RefBus), Quiet s → s.env = .reference bus → bus.short = false → s.searchLd = 0xFF#8 →
    (∀ d, bus.devices = [d] → ∃ t, exec .search s = .next t ∧ t.searchLd = 0x00#8 ∧ t.searchRom = d.rom ∧
      t.responses = s.responses ++ [⟨.ok, .found d.rom false⟩]) ∧
    (bus.devices = [] → ∃ t addr more, exec .search s = .next t ∧ KeepsSearch s t ∧
      Ran s t [.precheck true, .reset false] [⟨.busFault, .found addr more⟩])

/-! ### Sensor protocol -/

/-- 43_sensor_protocol.md R115: `START_CONVERSION T` sends the convert command to the target and does not wait. -/
def Obligations.StartConversionSendsConvert : Prop :=
  ∀ (s : State) (target : Target), Quiet s → ∃ t, exec (.startConversion target) s = .next t ∧
    RanAddressed s t target 0x44#8 (fun rs => rs = [⟨.busFault, .none⟩])
      (fun payload rs => payload = [] ∧ rs = [⟨.ok, .none⟩])

/-- 43_sensor_protocol.md R116: `CONVERSION_IN_PROGRESS` is one read slot with no reset, always `OK`, and `busy` is 1 when
the sample was 0. -/
def Obligations.ConversionInProgressReadsOneBit : Prop :=
  ∀ s : State, Quiet s → ∃ r t, exec .conversionInProgress s = .next t ∧ KeepsSearch s t ∧
    Ran s t [.slot true r] [⟨.ok, .busy (!r)⟩]

/-- 43_sensor_protocol.md R117: `PARASITE_POWERED T` sends read-power-supply and reads one bit, low meaning parasite;
`BUS_FAULT` if the reset fails, with a free flag. -/
def Obligations.ParasitePoweredReadsOneBit : Prop :=
  ∀ (s : State) (target : Target), Quiet s → ∃ t, exec (.parasitePowered target) s = .next t ∧
    RanAddressed s t target 0xB4#8 (fun rs => ∃ b, rs = [⟨.busFault, .parasite b⟩])
      (fun payload rs => ∃ r, payload = [.slot true r] ∧ rs = [⟨.ok, .parasite (!r)⟩])

/-- 43_sensor_protocol.md R118: `READ_SCRATCHPAD T` sends read-scratchpad, clocks out nine bytes, and answers `OK` with
them exactly when the CRC-8 of the first eight is the ninth, else `INTEGRITY_ERROR`; `BUS_FAULT` if the reset fails. -/
def Obligations.ReadScratchpadChecksItsCrc : Prop :=
  ∀ (s : State) (target : Target), Quiet s → ∃ t, exec (.readScratchpad target) s = .next t ∧
    RanAddressed s t target 0xBE#8 (fun rs => ∃ sp, rs = [⟨.busFault, .scratchpad sp⟩])
      (fun payload rs => ∃ sp : Scratchpad, payload = bytesEvents (List.replicate 9 0xFF#8) sp.bytes ∧
        if (bytesBits (sp.bytes.take 8)).foldl crcSerial 0x00#8 = sp.crc then rs = [⟨.ok, .scratchpad sp⟩]
        else ∃ any, rs = [⟨.integrityError, .scratchpad any⟩])

/-- 43_sensor_protocol.md R119: `WRITE_SCRATCHPAD` sends write-scratchpad, the high and low alarm bytes, and the
configuration byte only to an address of a programmable family; there is no read-back. -/
def Obligations.WriteScratchpadSendsItsBytes : Prop :=
  ∀ (s : State) (target : Target) (th tl cfg : Byte), Quiet s →
    ∃ t, exec (.writeScratchpad target th tl cfg) s = .next t ∧
      RanAddressed s t target 0x4E#8 (fun rs => rs = [⟨.busFault, .none⟩])
        (fun payload rs => rs = [⟨.ok, .none⟩] ∧ ∃ got,
          (if ∃ a, target = .address a ∧ s.cfg.Prog (Address.byte a 0) then
            got.length = 3 ∧ payload = bytesEvents [th, tl, cfg] got
          else got.length = 2 ∧ payload = bytesEvents [th, tl] got))

/-- 43_sensor_protocol.md R120: `COPY_SCRATCHPAD T` sends copy-scratchpad and waits the settling delay `T_COPY_SETTLE`; after a
failed reset there is no delay. The event names the parameter (log entry 30). -/
def Obligations.CopyScratchpadWaitsItsDelay : Prop :=
  ∀ (s : State) (target : Target), Quiet s → ∃ t, exec (.copyScratchpad target) s = .next t ∧
    RanAddressed s t target 0x48#8 (fun rs => rs = [⟨.busFault, .none⟩])
      (fun payload rs => payload = [.delay .copySettle] ∧ rs = [⟨.ok, .none⟩])

/-- 43_sensor_protocol.md R121: `RECALL_EEPROM T` polls one read slot at a time with a delay between two polls: `k` polls
that read 0 and then one that reads 1 give `OK`; `RECALL_MAX_POLLS` polls that all read 0 give `TIMEOUT`, with no delay
after the last. So it ends for every environment. The delay event names its parameter, `T_RECALL_POLL` (log entry 30). -/
def Obligations.RecallEepromPollsWithinItsBound : Prop :=
  ∀ (s : State) (target : Target), Quiet s → s.cfg.Ok → ∃ t, exec (.recallEeprom target) s = .next t ∧
    RanAddressed s t target 0xB8#8 (fun rs => rs = [⟨.busFault, .none⟩])
      (fun payload rs =>
        (∃ k, k < s.cfg.recallMaxPolls ∧ rs = [⟨.ok, .none⟩] ∧
          payload = (List.replicate k [Event.slot true false, .delay .recallPoll]).flatten ++ [.slot true true]) ∨
        (rs = [⟨.timeout, .none⟩] ∧
          payload = (List.replicate (s.cfg.recallMaxPolls - 1) [Event.slot true false, .delay .recallPoll]).flatten ++
            [.slot true false]))

/-- 60_exceptions.md R131, R133: on a shorted or an empty bus every operation that opens with a reset returns `BUS_FAULT`,
whatever it would have checked later. `SEARCH` with `SEARCH_LD = DONE` does not get there. -/
def Obligations.DeadBusGivesBusFault : Prop :=
  ∀ (i : Instr) (s : State) (bus : RefBus), Quiet s → s.env = .reference bus → (bus.short = true ∨ bus.devices = []) →
    Instr.opensWithReset i = true → i.wellFormed s.cfg = true → (i = .search → s.searchLd ≠ 0x00#8) →
    ∃ t r, exec i s = .next t ∧ t.responses = s.responses ++ [r] ∧ r.status = .busFault ∧
      t.history = s.history ++ (if bus.short then [.precheck false] else [.precheck true, .reset false])

/-- 40_bus_transport.md R85, R86, R93, 43_sensor_protocol.md R115 to R121: in every state in which the environment answers
the reset with presence, every operation that opens with a reset gets past it and does not return `BUS_FAULT`; the ones
that can fail at the reset only return `OK`. -/
def Obligations.LiveBusCarriesTheOperation : Prop :=
  ∀ (i : Instr) (s : State), Quiet s → BusAlive s → Instr.opensWithReset i = true → i.wellFormed s.cfg = true →
    (i = .search → s.searchLd ≠ 0x00#8) →
    ∃ t r evs, exec i s = .next t ∧ t.responses = s.responses ++ [r] ∧ t.history = s.history ++ resetOk ++ evs ∧
      r.status ≠ .busFault ∧ (Instr.failsOnlyAtReset i = true → r.status = .ok)

/-- 43_sensor_protocol.md R121, 20_memory.md R41: recalling by the address of a device that answers 0 to `RECALL_BUSY` polls
succeeds if the poll bound is larger, and times out if it is not. -/
def Obligations.RecallOfADeviceEndsByItsBusyTime : Prop :=
  ∀ (s : State) (bus : RefBus) (d : Device), Quiet s → s.env = .reference bus → bus.short = false → d ∈ bus.devices →
    ∃ t, exec (.recallEeprom (.address d.rom)) s = .next t ∧
      t.responses = s.responses ++ [⟨if bus.recallBusy < s.cfg.recallMaxPolls then .ok else .timeout, .none⟩]

/-- 43_sensor_protocol.md R115, R116, 20_memory.md R31, R38, R41: after `START_CONVERSION *` on a bus with an externally powered
device, `CONV_BUSY` polls report busy, whatever a parasite-powered device beside it does: the model's reading of R116 "on the
bus" by R31 and R38 (log entry 20). If every device is externally powered, the next poll reports not busy; with a parasite-powered one that answer is unspecified (R123, log entry 20). -/
def Obligations.ConversionPollsAreBusyThenDone : Prop :=
  ∀ (s : State) (bus : RefBus), Quiet s → s.env = .reference bus → bus.short = false →
    (∃ d ∈ bus.devices, d.parasite = false) →
    ∃ t last, runInstrs (.startConversion .broadcast :: List.replicate (bus.convBusy + 1) .conversionInProgress) s = some t ∧
      t.responses = s.responses ++ [⟨.ok, .none⟩] ++ List.replicate bus.convBusy ⟨.ok, .busy true⟩ ++ [⟨.ok, .busy last⟩] ∧
      ((∀ d ∈ bus.devices, d.parasite = false) → last = false)

/-- 43_sensor_protocol.md R115, 20_memory.md R38, R41: after `START_CONVERSION` by the address of an externally powered
device, `CONV_BUSY` polls report busy and the next one not busy, whatever other devices stand on the bus. THE MODEL'S READING
(log entry 20): a device that is not selected does not answer, so a parasite-powered one that is not selected leaves the
answers fixed, though 43_sensor_protocol.md R116 calls the result unspecified with such a device "on the bus". -/
def Obligations.ConversionOfOneDeviceIgnoresTheOthers : Prop :=
  ∀ (s : State) (bus : RefBus) (d : Device), Quiet s → s.env = .reference bus → bus.short = false → d ∈ bus.devices →
    (bus.devices.map Device.rom).Nodup → d.parasite = false →
    ∃ t, runInstrs (.startConversion (.address d.rom) :: List.replicate (bus.convBusy + 1) .conversionInProgress) s = some t ∧
      t.responses = s.responses ++ [⟨.ok, .none⟩] ++ List.replicate bus.convBusy ⟨.ok, .busy true⟩ ++ [⟨.ok, .busy false⟩]

/-- 43_sensor_protocol.md R117, 20_memory.md R31, R41: `PARASITE_POWERED *` answers 1 if any device on the bus is
parasite-powered, and by the address of a device it answers for that device. -/
def Obligations.ParasiteFlagIsOfTheSelectedDevices : Prop :=
  ∀ (s : State) (bus : RefBus), Quiet s → s.env = .reference bus → bus.short = false → bus.devices ≠ [] →
    (∃ t, exec (.parasitePowered .broadcast) s = .next t ∧
      t.responses = s.responses ++ [⟨.ok, .parasite (bus.devices.any fun d => d.parasite)⟩]) ∧
    ∀ d ∈ bus.devices, (bus.devices.map Device.rom).Nodup → ∃ t, exec (.parasitePowered (.address d.rom)) s = .next t ∧
      t.responses = s.responses ++ [⟨.ok, .parasite d.parasite⟩]

/-- 43_sensor_protocol.md R118, 44_temperature_decoder.md R127, 20_memory.md R38 to R41: on a bus of devices with distinct
addresses, reading by the address of a device returns that device's own scratchpad, and its temperature. -/
def Obligations.AddressedReadReturnsThatDevice : Prop :=
  ∀ (s : State) (bus : RefBus) (d : Device), Quiet s → s.env = .reference bus → bus.short = false → d ∈ bus.devices →
    (bus.devices.map Device.rom).Nodup → crc8 (scratchpadBody d.sp) = d.sp.crc →
    (∃ t, exec (.readScratchpad (.address d.rom)) s = .next t ∧
      t.responses = s.responses ++ [⟨.ok, .scratchpad d.sp⟩]) ∧
    ∀ v, variantOf s.cfg (Address.byte d.rom 0) = some v →
      ∃ t, exec (.readTemperature (.address d.rom)) s = .next t ∧
        t.responses = s.responses ++ [⟨.ok, .temperature (decodeFixed v d.sp)⟩]

/-- 43_sensor_protocol.md R119, 20_memory.md R41, R42: on a bus of devices with distinct addresses, `WRITE_SCRATCHPAD` by
the address of a device of any family stores the two alarm bytes in that device, and the configuration bits if it is of a
programmable family, else its configuration byte stays; its CRC is recomputed. No other device's scratchpad changes: that
the others do not recompute their CRC is the model's reading of R41 "Every device then recomputes" (log entry 19). -/
def Obligations.AddressedWriteReachesOnlyThatDevice : Prop :=
  ∀ (s : State) (bus : RefBus) (d : Device) (th tl cfg : Byte), Quiet s → s.env = .reference bus → bus.short = false →
    d ∈ bus.devices → (bus.devices.map Device.rom).Nodup →
    ∃ t bus', exec (.writeScratchpad (.address d.rom) th tl cfg) s = .next t ∧ t.env = .reference bus' ∧
      bus'.devices.map (fun e => (e.rom, e.sp)) = bus.devices.map (fun e => (e.rom,
        if e.rom = d.rom then
          let config := if s.cfg.Prog (Address.byte d.rom 0) then (cfg &&& 0x60#8) ||| 0x1F#8 else e.sp.config
          let sp := { e.sp with th := th, tl := tl, config := config }
          { sp with crc := crc8 (scratchpadBody sp) }
        else e.sp))

/-- 43_sensor_protocol.md R122, 20_memory.md R31: a broadcast scratchpad read returns the bitwise AND of the scratchpads of
all devices, and its status is what the CRC of that AND says. -/
def Obligations.BroadcastReadIsTheWiredAnd : Prop :=
  ∀ (s : State) (bus : RefBus), Quiet s → s.env = .reference bus → bus.short = false → bus.devices ≠ [] →
    ∃ (t : State) (sp : Scratchpad),
      (∀ k, k < 72 → scratchpadBit sp k = bus.devices.all (fun d => scratchpadBit d.sp k)) ∧
      exec (.readScratchpad .broadcast) s = .next t ∧
      if crc8 (scratchpadBody sp) = sp.crc then t.responses = s.responses ++ [⟨.ok, .scratchpad sp⟩]
      else ∃ any, t.responses = s.responses ++ [⟨.integrityError, .scratchpad any⟩]

/-! ### Temperature -/

/-- 44_temperature_decoder.md R126, family A: `DECODE_TEMPERATURE` returns sixteen times
`(base << 3) + (countPerDegree - countRemaining) - 4` mod 2^16, with `base` the raw value of bytes 0 and 1 with its low
bit cleared, and touches nothing but the response. -/
def Obligations.LegacyDecodeFormula : Prop :=
  ∀ (s : State) (sp : Scratchpad), exec (.decodeTemperature s.cfg.familyA sp) s = .next { s with
    responses := s.responses ++ [⟨.ok, .temperature (BitVec.ofInt 16
      (16 * (8 * (2 * (((sp.tempLsb.toNat + 256 * sp.tempMsb.toNat) / 2 : Nat) : Int)) +
        ((sp.countPerC.toNat : Int) - (sp.countRemain.toNat : Int)) - 4)))⟩] }

/-- 44_temperature_decoder.md R126, R128, families B and C: `DECODE_TEMPERATURE` rounds the signed raw value toward minus
infinity to a multiple of 2^k, k = 3, 2, 1, 0 at resolution codes 0 to 3 of `CONFIG[6:5]`, returns sixteen times that
mod 2^16, and touches nothing but the response. -/
def Obligations.ProgrammableDecodeFormula : Prop :=
  ∀ (s : State) (fam : Byte) (sp : Scratchpad), s.cfg.Ok → s.cfg.Prog fam →
    exec (.decodeTemperature fam sp) s = .next { s with
      responses := s.responses ++ [⟨.ok, .temperature (BitVec.ofInt 16
        (16 * (2 ^ (3 - sp.config.toNat / 32 % 4) *
          ((sp.tempMsb ++ sp.tempLsb).toInt / 2 ^ (3 - sp.config.toNat / 32 % 4)))))⟩] }

/-- 44_temperature_decoder.md R128: the Q8.8 result is the 16-bit count of sixteenths shifted left by 4, and it is exact for
counts from -2048 to 2047; outside it wraps. -/
def Obligations.FixedPointIsExactInRange : Prop :=
  ∀ (v : Variant) (sp : Scratchpad),
    decodeFixed v sp = familyRaw v sp <<< 4 ∧
    (-2048 ≤ (familyRaw v sp).toInt → (familyRaw v sp).toInt ≤ 2047 →
      (decodeFixed v sp).toInt = 16 * (familyRaw v sp).toInt)

/-- 44_temperature_decoder.md R127: `READ_TEMPERATURE` puts the same events on the bus as `READ_SCRATCHPAD` of the same
target, fails with the same status, and on `OK` returns what `DECODE_TEMPERATURE` returns for that scratchpad. -/
def Obligations.ReadTemperatureIsReadThenDecode : Prop :=
  ∀ (s : State) (a : Address), Quiet s → s.cfg.Known (Address.byte a 0) →
    ∃ t u r, exec (.readTemperature (.address a)) s = .next t ∧ exec (.readScratchpad (.address a)) s = .next u ∧
      t.history = u.history ∧ t.env = u.env ∧ KeepsSearch s t ∧ u.responses = s.responses ++ [r] ∧
      (r.status = .ok → ∃ sp, r.result = .scratchpad sp ∧ ∃ v, exec (.decodeTemperature (Address.byte a 0) sp) s = .next v ∧
        t.responses = v.responses) ∧
      (r.status ≠ .ok → ∃ w, t.responses = s.responses ++ [⟨r.status, .temperature w⟩])

/-! ### The host's view -/

/-- 10_state.md R21, R23: a result flag is read from an `OK` response of its own operation, and reading it from any other
response is refused, one with another result or with another status (log entry 12). -/
def Obligations.FlagsAreReadOnlyWhereReturned : Prop :=
  (∀ addr b, readHasMore ⟨.ok, .found addr b⟩ = .next b) ∧
  (∀ b, readBusy ⟨.ok, .busy b⟩ = .next b) ∧
  (∀ b, readParasite ⟨.ok, .parasite b⟩ = .next b) ∧
  ∀ r : Response,
    ((∀ addr b, r ≠ ⟨.ok, .found addr b⟩) → readHasMore r = .refused .flagNotReturned) ∧
    ((∀ b, r ≠ ⟨.ok, .busy b⟩) → readBusy r = .refused .flagNotReturned) ∧
    ((∀ b, r ≠ ⟨.ok, .parasite b⟩) → readParasite r = .refused .flagNotReturned)

/-- 20_memory.md R33, 70_reset_and_hazards.md R150: no result depends on a timing parameter. With other values of the `T_*` an
instruction is refused or answers a next state just as before, and the two next states, their responses and bus histories
included, differ in those parameters alone (the delay events name them, log entry 30). -/
def Obligations.TimingParametersDoNotShow : Prop :=
  ∀ (i : Instr) (s : State) (p : Params), SameButTiming s.cfg p →
    (∀ t, exec i s = .next t → exec i { s with cfg := p } = .next { t with cfg := p }) ∧
    (∀ why, exec i s = .refused why → exec i { s with cfg := p } = .refused why)
end

