-- ==== Sys2Proof/Laws/Bits.lean ====
section
/-! SUPPORT. Bits and bytes: a byte is its bits in wire order, and back. -/

namespace Sys2Proof.Machine

@[simp] theorem byteBits_length (v : Byte) : (byteBits v).length = 8 := rfl

theorem natOfBits_lt (bits : List Bool) : natOfBits bits < 2 ^ bits.length := by
  induction bits with
  | nil => simp [natOfBits]
  | cons b bs ih =>
    simp only [natOfBits, List.length_cons, Nat.pow_succ]
    cases b
    · simp; omega
    · simp; omega

theorem natOfBits_testBit (bits : List Bool) (i : Nat) : (natOfBits bits).testBit i = bits.getD i false := by
  induction bits generalizing i with
  | nil => simp [natOfBits]
  | cons b bs ih =>
    cases i with
    | zero => cases b <;> simp [natOfBits]
    | succ i =>
      have h : (natOfBits (b :: bs)).testBit (i + 1) = (natOfBits bs).testBit i := by
        rw [Nat.testBit_succ]
        congr 1
        cases b
        · simp [natOfBits]
        · simp only [natOfBits, Bool.toNat_true]; omega
      rw [h, ih]
      simp

theorem byteOfBits_getLsbD (bits : List Bool) (i : Nat) (h : i < 8) :
    (byteOfBits bits).getLsbD i = bits.getD i false := by
  rw [byteOfBits, BitVec.getLsbD_ofNat, natOfBits_testBit]
  simp only [h, decide_true, Bool.true_and]

theorem addressOfBits_getLsbD (bits : List Bool) (i : Nat) (h : i < 64) :
    (addressOfBits bits).getLsbD i = bits.getD i false := by
  rw [addressOfBits, BitVec.getLsbD_ofNat, natOfBits_testBit]
  simp only [h, decide_true, Bool.true_and]

/-- Slot `i` of a byte on the wire carries bit `i` (20_memory.md R34). -/
theorem byteBits_getElem? (v : Byte) (i : Nat) (h : i < 8) : (byteBits v)[i]? = some (v.getLsbD i) := by
  interval_cases i <;> rfl

@[simp] theorem byteOfBits_byteBits (v : Byte) : byteOfBits (byteBits v) = v := by
  apply BitVec.eq_of_getLsbD_eq
  intro i h
  rw [byteOfBits_getLsbD _ _ h, List.getD_eq_getElem?_getD, byteBits_getElem? v i h]
  rfl

theorem byteBits_byteOfBits (bits : List Bool) (h : bits.length = 8) : byteBits (byteOfBits bits) = bits := by
  match bits, h with
  | [b0, b1, b2, b3, b4, b5, b6, b7], _ =>
    simp only [byteBits, byteOfBits_getLsbD _ _ (by decide : 0 < 8), byteOfBits_getLsbD _ _ (by decide : 1 < 8),
      byteOfBits_getLsbD _ _ (by decide : 2 < 8), byteOfBits_getLsbD _ _ (by decide : 3 < 8),
      byteOfBits_getLsbD _ _ (by decide : 4 < 8), byteOfBits_getLsbD _ _ (by decide : 5 < 8),
      byteOfBits_getLsbD _ _ (by decide : 6 < 8), byteOfBits_getLsbD _ _ (by decide : 7 < 8)]
    rfl

@[simp] theorem bytesBits_length (bs : List Byte) : (bytesBits bs).length = 8 * bs.length := by
  induction bs with
  | nil => rfl
  | cons b bs ih => simp [bytesBits, ih]; omega

@[simp] theorem byteEvents_length (v r : Byte) : (byteEvents v r).length = 8 := rfl

/-- The two lists of one byte transfer, zipped, are its events. -/
theorem zipWith_slot_byteBits (v : Byte) (rs : List Bool) (h : rs.length = 8) :
    List.zipWith Event.slot (byteBits v) rs = byteEvents v (byteOfBits rs) := by
  rw [byteEvents, byteBits_byteOfBits rs h]

end Sys2Proof.Machine
end

