-- ==== Sys2Proof/Laws/Decode.lean ====
section
/-! SUPPORT. The parts of the encoding: the bytes of an address, a target at the front of a request, and the op bytes. -/

namespace Sys2Proof

/-- An address is its eight bytes (30_encoding.md R61). -/
@[simp] theorem addressOfBytes_byte (a : Address) :
    addressOfBytes (Address.byte a 0) (Address.byte a 1) (Address.byte a 2) (Address.byte a 3) (Address.byte a 4)
      (Address.byte a 5) (Address.byte a 6) (Address.byte a 7) = a := by
  apply BitVec.eq_of_getLsbD_eq
  intro i hi
  simp only [Address.byte, addressOfBytes, BitVec.getLsbD_extractLsb', BitVec.getLsbD_append]
  repeat' split
  all_goals
    rw [decide_eq_true (by omega), Bool.true_and]
    congr 1
    omega

/-- The bytes of an address made of bytes are those bytes (30_encoding.md R61). -/
@[simp] theorem addressBytes_addressOfBytes (b0 b1 b2 b3 b4 b5 b6 b7 : Byte) :
    addressBytes (addressOfBytes b0 b1 b2 b3 b4 b5 b6 b7) = [b0, b1, b2, b3, b4, b5, b6, b7] := by
  simp only [addressBytes, List.cons.injEq, and_true, Address.byte, addressOfBytes]
  refine ⟨?_, ?_, ?_, ?_, ?_, ?_, ?_, ?_⟩ <;>
  · apply BitVec.eq_of_getLsbD_eq
    intro i hi
    simp only [BitVec.getLsbD_extractLsb', BitVec.getLsbD_append, hi, decide_true, Bool.true_and]
    interval_cases i <;> rfl

@[simp] theorem addressBytes_length (a : Address) : (addressBytes a).length = 8 := rfl

@[simp] theorem scratchpadBytes_length (sp : Scratchpad) : sp.bytes.length = 9 := rfl

/-- Bit `8 k + i` of an address is bit `i` of its byte `k` (00_scope.md R8). -/
theorem byte_getLsbD (a : Address) (k i : Nat) (h : i < 8) : (Address.byte a k).getLsbD i = a.getLsbD (8 * k + i) := by
  simp [Address.byte, h]

/-- A target is read back from its bytes, whatever follows (30_encoding.md R67). -/
@[simp] theorem readTarget_encodeTarget_append (t : Target) (rest : List Byte) :
    readTarget (encodeTarget t ++ rest) = .ok (t, rest) := by
  cases t with
  | broadcast => rfl
  | address a =>
    have h : readTarget (encodeTarget (.address a) ++ rest) =
        .ok (.address (addressOfBytes (Address.byte a 0) (Address.byte a 1) (Address.byte a 2) (Address.byte a 3)
          (Address.byte a 4) (Address.byte a 5) (Address.byte a 6) (Address.byte a 7)), rest) := rfl
    rw [h, addressOfBytes_byte]

@[simp] theorem readTarget_encodeTarget (t : Target) : readTarget (encodeTarget t) = .ok (t, []) := by
  simpa using readTarget_encodeTarget_append t []

/-- Bytes that read as a target are that target's bytes and the rest (30_encoding.md R67). -/
theorem readTarget_ok {bytes rest : List Byte} {t : Target} (h : readTarget bytes = .ok (t, rest)) :
    bytes = encodeTarget t ++ rest := by
  unfold readTarget at h
  split at h
  · cases h
  · split at h
    · cases h
      subst_vars
      rfl
    · split at h
      · split at h
        · cases h
          subst_vars
          simp [encodeTarget]
        · cases h
      · cases h

/-- A tag byte other than 0x00 and 0x01 is rejected by name (30_encoding.md R70 item 3). -/
theorem readTarget_badTag (tag : Byte) (rest : List Byte) (h0 : tag ≠ 0x00#8) (h1 : tag ≠ 0x01#8) :
    readTarget (tag :: rest) = .error .badTargetTag := by
  simp [readTarget, h0, h1]

/-- The length of a target that stands at the front (30_encoding.md R66). -/
@[simp] theorem targetLength_encodeTarget_append (t : Target) (rest : List Byte) :
    targetLength (encodeTarget t ++ rest) = (encodeTarget t).length := by
  cases t <;> rfl

@[simp] theorem targetLength_encodeTarget (t : Target) : targetLength (encodeTarget t) = (encodeTarget t).length := by
  simpa using targetLength_encodeTarget_append t []

/-- The count byte and the bytes of a sequence that fits its format are two bytes fewer than its request. -/
theorem encodeSeq_length (bytes : List Byte) : (encodeSeq bytes).length = bytes.length + 1 := by
  simp [encodeSeq]

end Sys2Proof
end

