-- ==== Sys2Proof/Laws/State.lean ====
section
/-! SUPPORT. One lemma for each field of the state and each update of it, true by unfolding. -/

namespace Sys2Proof.Machine

/-! ### `lineDriveLow` -/

@[simp] theorem lineDriveLow_lineDrv (s : State) : (lineDriveLow s).lineDrv = true := rfl
@[simp] theorem lineDriveLow_csHeld (s : State) : (lineDriveLow s).csHeld = s.csHeld := rfl
@[simp] theorem lineDriveLow_csSaved (s : State) : (lineDriveLow s).csSaved = s.csSaved := rfl
@[simp] theorem lineDriveLow_searchLd (s : State) : (lineDriveLow s).searchLd = s.searchLd := rfl
@[simp] theorem lineDriveLow_searchRom (s : State) : (lineDriveLow s).searchRom = s.searchRom := rfl
@[simp] theorem lineDriveLow_ie (s : State) : (lineDriveLow s).ie = s.ie := rfl
@[simp] theorem lineDriveLow_history (s : State) : (lineDriveLow s).history = s.history := rfl
@[simp] theorem lineDriveLow_responses (s : State) : (lineDriveLow s).responses = s.responses := rfl
@[simp] theorem lineDriveLow_env (s : State) : (lineDriveLow s).env = s.env := rfl
@[simp] theorem lineDriveLow_inputs (s : State) : (lineDriveLow s).inputs = s.inputs := rfl
@[simp] theorem lineDriveLow_draws (s : State) : (lineDriveLow s).draws = s.draws := rfl
@[simp] theorem lineDriveLow_cfg (s : State) : (lineDriveLow s).cfg = s.cfg := rfl

/-! ### `lineRelease` -/

@[simp] theorem lineRelease_lineDrv (s : State) : (lineRelease s).lineDrv = false := rfl
@[simp] theorem lineRelease_csHeld (s : State) : (lineRelease s).csHeld = s.csHeld := rfl
@[simp] theorem lineRelease_csSaved (s : State) : (lineRelease s).csSaved = s.csSaved := rfl
@[simp] theorem lineRelease_searchLd (s : State) : (lineRelease s).searchLd = s.searchLd := rfl
@[simp] theorem lineRelease_searchRom (s : State) : (lineRelease s).searchRom = s.searchRom := rfl
@[simp] theorem lineRelease_ie (s : State) : (lineRelease s).ie = s.ie := rfl
@[simp] theorem lineRelease_history (s : State) : (lineRelease s).history = s.history := rfl
@[simp] theorem lineRelease_responses (s : State) : (lineRelease s).responses = s.responses := rfl
@[simp] theorem lineRelease_env (s : State) : (lineRelease s).env = s.env := rfl
@[simp] theorem lineRelease_inputs (s : State) : (lineRelease s).inputs = s.inputs := rfl
@[simp] theorem lineRelease_draws (s : State) : (lineRelease s).draws = s.draws := rfl
@[simp] theorem lineRelease_cfg (s : State) : (lineRelease s).cfg = s.cfg := rfl

/-! ### `csEnter` -/

@[simp] theorem csEnter_lineDrv (s : State) : (csEnter s).lineDrv = s.lineDrv := rfl
@[simp] theorem csEnter_csHeld (s : State) : (csEnter s).csHeld = true := rfl
@[simp] theorem csEnter_csSaved (s : State) : (csEnter s).csSaved = s.ie := rfl
@[simp] theorem csEnter_searchLd (s : State) : (csEnter s).searchLd = s.searchLd := rfl
@[simp] theorem csEnter_searchRom (s : State) : (csEnter s).searchRom = s.searchRom := rfl
@[simp] theorem csEnter_ie (s : State) : (csEnter s).ie = false := rfl
@[simp] theorem csEnter_history (s : State) : (csEnter s).history = s.history := rfl
@[simp] theorem csEnter_responses (s : State) : (csEnter s).responses = s.responses := rfl
@[simp] theorem csEnter_env (s : State) : (csEnter s).env = s.env := rfl
@[simp] theorem csEnter_inputs (s : State) : (csEnter s).inputs = s.inputs := rfl
@[simp] theorem csEnter_draws (s : State) : (csEnter s).draws = s.draws := rfl
@[simp] theorem csEnter_cfg (s : State) : (csEnter s).cfg = s.cfg := rfl

/-! ### `csExit` -/

@[simp] theorem csExit_lineDrv (s : State) : (csExit s).lineDrv = s.lineDrv := rfl
@[simp] theorem csExit_csHeld (s : State) : (csExit s).csHeld = false := rfl
@[simp] theorem csExit_csSaved (s : State) : (csExit s).csSaved = s.csSaved := rfl
@[simp] theorem csExit_searchLd (s : State) : (csExit s).searchLd = s.searchLd := rfl
@[simp] theorem csExit_searchRom (s : State) : (csExit s).searchRom = s.searchRom := rfl
@[simp] theorem csExit_ie (s : State) : (csExit s).ie = s.csSaved := rfl
@[simp] theorem csExit_history (s : State) : (csExit s).history = s.history := rfl
@[simp] theorem csExit_responses (s : State) : (csExit s).responses = s.responses := rfl
@[simp] theorem csExit_env (s : State) : (csExit s).env = s.env := rfl
@[simp] theorem csExit_inputs (s : State) : (csExit s).inputs = s.inputs := rfl
@[simp] theorem csExit_draws (s : State) : (csExit s).draws = s.draws := rfl
@[simp] theorem csExit_cfg (s : State) : (csExit s).cfg = s.cfg := rfl

/-! ### `delay` -/

@[simp] theorem delay_lineDrv (t : Nat) (s : State) : (delay t s).lineDrv = s.lineDrv := rfl
@[simp] theorem delay_csHeld (t : Nat) (s : State) : (delay t s).csHeld = s.csHeld := rfl
@[simp] theorem delay_csSaved (t : Nat) (s : State) : (delay t s).csSaved = s.csSaved := rfl
@[simp] theorem delay_searchLd (t : Nat) (s : State) : (delay t s).searchLd = s.searchLd := rfl
@[simp] theorem delay_searchRom (t : Nat) (s : State) : (delay t s).searchRom = s.searchRom := rfl
@[simp] theorem delay_ie (t : Nat) (s : State) : (delay t s).ie = s.ie := rfl
@[simp] theorem delay_history (t : Nat) (s : State) : (delay t s).history = s.history := rfl
@[simp] theorem delay_responses (t : Nat) (s : State) : (delay t s).responses = s.responses := rfl
@[simp] theorem delay_env (t : Nat) (s : State) : (delay t s).env = s.env := rfl
@[simp] theorem delay_inputs (t : Nat) (s : State) : (delay t s).inputs = s.inputs := rfl
@[simp] theorem delay_draws (t : Nat) (s : State) : (delay t s).draws = s.draws := rfl
@[simp] theorem delay_cfg (t : Nat) (s : State) : (delay t s).cfg = s.cfg := rfl

/-! ### `record` -/

@[simp] theorem record_lineDrv (e : Event) (s : State) : (record e s).lineDrv = s.lineDrv := rfl
@[simp] theorem record_csHeld (e : Event) (s : State) : (record e s).csHeld = s.csHeld := rfl
@[simp] theorem record_csSaved (e : Event) (s : State) : (record e s).csSaved = s.csSaved := rfl
@[simp] theorem record_searchLd (e : Event) (s : State) : (record e s).searchLd = s.searchLd := rfl
@[simp] theorem record_searchRom (e : Event) (s : State) : (record e s).searchRom = s.searchRom := rfl
@[simp] theorem record_ie (e : Event) (s : State) : (record e s).ie = s.ie := rfl
@[simp] theorem record_history (e : Event) (s : State) : (record e s).history = s.history ++ [e] := rfl
@[simp] theorem record_responses (e : Event) (s : State) : (record e s).responses = s.responses := rfl
@[simp] theorem record_env (e : Event) (s : State) : (record e s).env = s.env := rfl
@[simp] theorem record_inputs (e : Event) (s : State) : (record e s).inputs = s.inputs := rfl
@[simp] theorem record_draws (e : Event) (s : State) : (record e s).draws = s.draws := rfl
@[simp] theorem record_cfg (e : Event) (s : State) : (record e s).cfg = s.cfg := rfl

/-! ### `respond` -/

@[simp] theorem respond_lineDrv (st : Status) (r : Result) (s : State) : (respond st r s).lineDrv = s.lineDrv := rfl
@[simp] theorem respond_csHeld (st : Status) (r : Result) (s : State) : (respond st r s).csHeld = s.csHeld := rfl
@[simp] theorem respond_csSaved (st : Status) (r : Result) (s : State) : (respond st r s).csSaved = s.csSaved := rfl
@[simp] theorem respond_searchLd (st : Status) (r : Result) (s : State) : (respond st r s).searchLd = s.searchLd := rfl
@[simp] theorem respond_searchRom (st : Status) (r : Result) (s : State) : (respond st r s).searchRom = s.searchRom := rfl
@[simp] theorem respond_ie (st : Status) (r : Result) (s : State) : (respond st r s).ie = s.ie := rfl
@[simp] theorem respond_history (st : Status) (r : Result) (s : State) : (respond st r s).history = s.history := rfl
@[simp] theorem respond_responses (st : Status) (r : Result) (s : State) : (respond st r s).responses = s.responses ++ [⟨st, r⟩] := rfl
@[simp] theorem respond_env (st : Status) (r : Result) (s : State) : (respond st r s).env = s.env := rfl
@[simp] theorem respond_inputs (st : Status) (r : Result) (s : State) : (respond st r s).inputs = s.inputs := rfl
@[simp] theorem respond_draws (st : Status) (r : Result) (s : State) : (respond st r s).draws = s.draws := rfl
@[simp] theorem respond_cfg (st : Status) (r : Result) (s : State) : (respond st r s).cfg = s.cfg := rfl

/-! ### `fail` -/

@[simp] theorem fail_lineDrv (st : Status) (k : ResultKind) (s : State) : (fail st k s).lineDrv = s.lineDrv := rfl
@[simp] theorem fail_csHeld (st : Status) (k : ResultKind) (s : State) : (fail st k s).csHeld = s.csHeld := rfl
@[simp] theorem fail_csSaved (st : Status) (k : ResultKind) (s : State) : (fail st k s).csSaved = s.csSaved := rfl
@[simp] theorem fail_searchLd (st : Status) (k : ResultKind) (s : State) : (fail st k s).searchLd = s.searchLd := rfl
@[simp] theorem fail_searchRom (st : Status) (k : ResultKind) (s : State) : (fail st k s).searchRom = s.searchRom := rfl
@[simp] theorem fail_ie (st : Status) (k : ResultKind) (s : State) : (fail st k s).ie = s.ie := rfl
@[simp] theorem fail_history (st : Status) (k : ResultKind) (s : State) : (fail st k s).history = s.history := rfl
@[simp] theorem fail_responses (st : Status) (k : ResultKind) (s : State) : (fail st k s).responses = s.responses ++ [⟨st, freeResult s.draws k⟩] := rfl
@[simp] theorem fail_env (st : Status) (k : ResultKind) (s : State) : (fail st k s).env = s.env := rfl
@[simp] theorem fail_inputs (st : Status) (k : ResultKind) (s : State) : (fail st k s).inputs = s.inputs := rfl
@[simp] theorem fail_draws (st : Status) (k : ResultKind) (s : State) : (fail st k s).draws = s.draws + 1 := rfl
@[simp] theorem fail_cfg (st : Status) (k : ResultKind) (s : State) : (fail st k s).cfg = s.cfg := rfl

/-! ### `namedDelay` -/

@[simp] theorem namedDelay_lineDrv (t : Timing) (s : State) : (namedDelay t s).lineDrv = s.lineDrv := rfl
@[simp] theorem namedDelay_csHeld (t : Timing) (s : State) : (namedDelay t s).csHeld = s.csHeld := rfl
@[simp] theorem namedDelay_csSaved (t : Timing) (s : State) : (namedDelay t s).csSaved = s.csSaved := rfl
@[simp] theorem namedDelay_searchLd (t : Timing) (s : State) : (namedDelay t s).searchLd = s.searchLd := rfl
@[simp] theorem namedDelay_searchRom (t : Timing) (s : State) : (namedDelay t s).searchRom = s.searchRom := rfl
@[simp] theorem namedDelay_ie (t : Timing) (s : State) : (namedDelay t s).ie = s.ie := rfl
@[simp] theorem namedDelay_history (t : Timing) (s : State) : (namedDelay t s).history = s.history ++ [.delay t] := rfl
@[simp] theorem namedDelay_responses (t : Timing) (s : State) : (namedDelay t s).responses = s.responses := rfl
@[simp] theorem namedDelay_env (t : Timing) (s : State) : (namedDelay t s).env = s.env := rfl
@[simp] theorem namedDelay_inputs (t : Timing) (s : State) : (namedDelay t s).inputs = s.inputs := rfl
@[simp] theorem namedDelay_draws (t : Timing) (s : State) : (namedDelay t s).draws = s.draws := rfl
@[simp] theorem namedDelay_cfg (t : Timing) (s : State) : (namedDelay t s).cfg = s.cfg := rfl

/-! ### `takeInput` -/

@[simp] theorem takeInput_lineDrv (s : State) : (takeInput s).lineDrv = s.lineDrv := rfl
@[simp] theorem takeInput_csHeld (s : State) : (takeInput s).csHeld = s.csHeld := rfl
@[simp] theorem takeInput_csSaved (s : State) : (takeInput s).csSaved = s.csSaved := rfl
@[simp] theorem takeInput_searchLd (s : State) : (takeInput s).searchLd = s.searchLd := rfl
@[simp] theorem takeInput_searchRom (s : State) : (takeInput s).searchRom = s.searchRom := rfl
@[simp] theorem takeInput_ie (s : State) : (takeInput s).ie = s.ie := rfl
@[simp] theorem takeInput_history (s : State) : (takeInput s).history = s.history := rfl
@[simp] theorem takeInput_responses (s : State) : (takeInput s).responses = s.responses := rfl
@[simp] theorem takeInput_env (s : State) : (takeInput s).env = s.env := rfl
@[simp] theorem takeInput_inputs (s : State) : (takeInput s).inputs = s.inputs.tail := rfl
@[simp] theorem takeInput_draws (s : State) : (takeInput s).draws = s.draws := rfl
@[simp] theorem takeInput_cfg (s : State) : (takeInput s).cfg = s.cfg := rfl

/-! ### `pushFrame` -/

@[simp] theorem pushFrame_lineDrv (f : Frame) (s : State) : (pushFrame f s).lineDrv = s.lineDrv := rfl
@[simp] theorem pushFrame_csHeld (f : Frame) (s : State) : (pushFrame f s).csHeld = s.csHeld := rfl
@[simp] theorem pushFrame_csSaved (f : Frame) (s : State) : (pushFrame f s).csSaved = s.csSaved := rfl
@[simp] theorem pushFrame_searchLd (f : Frame) (s : State) : (pushFrame f s).searchLd = s.searchLd := rfl
@[simp] theorem pushFrame_searchRom (f : Frame) (s : State) : (pushFrame f s).searchRom = s.searchRom := rfl
@[simp] theorem pushFrame_ie (f : Frame) (s : State) : (pushFrame f s).ie = s.ie := rfl
@[simp] theorem pushFrame_history (f : Frame) (s : State) : (pushFrame f s).history = s.history := rfl
@[simp] theorem pushFrame_responses (f : Frame) (s : State) : (pushFrame f s).responses = s.responses := rfl
@[simp] theorem pushFrame_env (f : Frame) (s : State) : (pushFrame f s).env = s.env := rfl
@[simp] theorem pushFrame_inputs (f : Frame) (s : State) : (pushFrame f s).inputs = .frame f :: s.inputs := rfl
@[simp] theorem pushFrame_draws (f : Frame) (s : State) : (pushFrame f s).draws = s.draws := rfl
@[simp] theorem pushFrame_cfg (f : Frame) (s : State) : (pushFrame f s).cfg = s.cfg := rfl

/-! ### `blockReset` -/

@[simp] theorem blockReset_lineDrv (s : State) : (blockReset s).lineDrv = false := rfl
@[simp] theorem blockReset_csHeld (s : State) : (blockReset s).csHeld = false := rfl
@[simp] theorem blockReset_csSaved (s : State) : (blockReset s).csSaved = freeBit s.draws := rfl
@[simp] theorem blockReset_searchLd (s : State) : (blockReset s).searchLd = 0xFF#8 := rfl
@[simp] theorem blockReset_searchRom (s : State) : (blockReset s).searchRom = 0#64 := rfl
@[simp] theorem blockReset_ie (s : State) : (blockReset s).ie = s.ie := rfl
@[simp] theorem blockReset_history (s : State) : (blockReset s).history = s.history := rfl
@[simp] theorem blockReset_responses (s : State) : (blockReset s).responses = s.responses := rfl
@[simp] theorem blockReset_env (s : State) : (blockReset s).env = s.env := rfl
@[simp] theorem blockReset_inputs (s : State) : (blockReset s).inputs = s.inputs := rfl
@[simp] theorem blockReset_draws (s : State) : (blockReset s).draws = s.draws + 1 := rfl
@[simp] theorem blockReset_cfg (s : State) : (blockReset s).cfg = s.cfg := rfl

end Sys2Proof.Machine
end

