-- ==== Sys2Proof/Laws/Ops.lean ====
section
/-! SUPPORT. What each shared operation can do, said once: the events it performs, and the frame `Ran`. The provers
cite these and unfold nothing. -/

namespace Sys2Proof.Machine

/-! ### Events and the environment -/

@[simp] theorem hasWindow_nil : hasWindow [] = false := rfl

@[simp] theorem hasWindow_append (a b : List Event) : hasWindow (a ++ b) = (hasWindow a || hasWindow b) := by
  simp [hasWindow]

@[simp] theorem hasWindow_slot (w r : Bool) (evs : List Event) : hasWindow (.slot w r :: evs) = true := by
  simp [hasWindow]

@[simp] theorem hasWindow_reset (p : Bool) (evs : List Event) : hasWindow (.reset p :: evs) = true := by
  simp [hasWindow]

@[simp] theorem hasWindow_precheck (ok : Bool) (evs : List Event) : hasWindow (.precheck ok :: evs) = hasWindow evs := by
  simp [hasWindow]

@[simp] theorem hasWindow_delay (t : Timing) (evs : List Event) : hasWindow (.delay t :: evs) = hasWindow evs := by
  simp [hasWindow]

theorem afterEvents_append (p : Params) (e : Environment) (a b : List Event) :
    Environment.afterEvents p e (a ++ b) = Environment.afterEvents p (Environment.afterEvents p e a) b := by
  induction a generalizing e with
  | nil => rfl
  | cons ev evs ih => exact ih _

theorem allowsAll_append (p : Params) (e : Environment) (a b : List Event) :
    Environment.AllowsAll p e (a ++ b) ↔
      Environment.AllowsAll p e a ∧ Environment.AllowsAll p (Environment.afterEvents p e a) b := by
  induction a generalizing e with
  | nil => simp [Environment.AllowsAll, Environment.afterEvents]
  | cons ev evs ih =>
    simp only [List.cons_append, Environment.AllowsAll, Environment.afterEvents, ih, and_assoc]

/-- A delay takes no sample. -/
theorem allows_delay (e : Environment) (t : Timing) : Environment.Allows e (.delay t) :=
  ⟨fun _ h => (nomatch h), fun _ _ _ h => (nomatch h)⟩

/-- A write-0 slot that reads 0 takes no sample. -/
theorem allows_slot_false (e : Environment) : Environment.Allows e (.slot false false) :=
  ⟨fun _ h => (Event.slot.inj h).2.symm, fun _ _ _ h => nomatch h⟩

/-- An event with a sample is allowed if the sample is the answer the environment has. -/
theorem allows_of_sample {e : Environment} {ev : Event} {k : SampleKind} {b : Bool} (hs : ev.sample = some (k, b))
    (h : ∀ a, Environment.answerTo e k = some a → b = a) : Environment.Allows e ev := by
  refine ⟨fun r hr => ?_, fun k' b' a hk ha => ?_⟩
  · subst hr
    cases hs
  · rw [hs] at hk
    cases hk
    exact h a ha

/-! ### The frame -/

theorem Ran.refl {s : State} (h : Quiet s) : Ran s s [] [] where
  history := by simp
  responses := by simp
  lineDrv := h.1
  csHeld := h.2
  ie := rfl
  csSaved := by simp
  inputs := rfl
  cfg := rfl
  env := rfl
  allowed := trivial

theorem Ran.trans {s t u : State} {e₁ e₂ : List Event} {r₁ r₂ : List Response}
    (h₁ : Ran s t e₁ r₁) (h₂ : Ran t u e₂ r₂) : Ran s u (e₁ ++ e₂) (r₁ ++ r₂) where
  history := by rw [h₂.history, h₁.history, List.append_assoc]
  responses := by rw [h₂.responses, h₁.responses, List.append_assoc]
  lineDrv := h₂.lineDrv
  csHeld := h₂.csHeld
  ie := h₂.ie.trans h₁.ie
  csSaved := by
    rw [h₂.csSaved, h₁.csSaved, h₁.ie, hasWindow_append]
    cases hasWindow e₁ <;> cases hasWindow e₂ <;> simp
  inputs := h₂.inputs.trans h₁.inputs
  cfg := h₂.cfg.trans h₁.cfg
  env := by rw [h₂.env, h₁.env, h₁.cfg, afterEvents_append]
  allowed := by
    rw [allowsAll_append]
    exact ⟨h₁.allowed, by have := h₂.allowed; rwa [h₁.cfg, h₁.env] at this⟩

theorem Ran.quiet {s t : State} {e : List Event} {r : List Response} (h : Ran s t e r) : Quiet t :=
  ⟨h.lineDrv, h.csHeld⟩

theorem KeepsSearch.refl (s : State) : KeepsSearch s s := ⟨rfl, rfl⟩

theorem KeepsSearch.trans {s t u : State} (h₁ : KeepsSearch s t) (h₂ : KeepsSearch t u) : KeepsSearch s u :=
  ⟨h₂.1.trans h₁.1, h₂.2.trans h₁.2⟩

/-- One event, with the frame of `Ran`. -/
theorem Ran.of_eq {s t : State} {ev : Event} {c : Bool} {n : Nat}
    (h : t = { s with
      lineDrv := false, csHeld := false, csSaved := c, history := s.history ++ [ev],
      env := Environment.afterEvent s.cfg s.env ev, draws := n })
    (hc : c = if hasWindow [ev] then s.ie else s.csSaved) (ha : Environment.Allows s.env ev) : Ran s t [ev] [] where
  history := by rw [h]
  responses := by rw [h, List.append_nil]
  lineDrv := by rw [h]
  csHeld := by rw [h]
  ie := by rw [h]
  csSaved := by rw [h, ← hc]
  inputs := by rw [h]
  cfg := by rw [h]
  env := by rw [h]; rfl
  allowed := ⟨ha, trivial⟩

/-- A response changes nothing but the list of responses. -/
theorem respond_ran {s : State} (h : Quiet s) (st : Status) (r : Result) : Ran s (respond st r s) [] [⟨st, r⟩] where
  history := by simp
  responses := rfl
  lineDrv := h.1
  csHeld := h.2
  ie := rfl
  csSaved := by simp
  inputs := rfl
  cfg := rfl
  env := rfl
  allowed := trivial

theorem respond_keepsSearch (s : State) (st : Status) (r : Result) : KeepsSearch s (respond st r s) := ⟨rfl, rfl⟩

/-- A failure returns its status with free result fields and changes nothing else. -/
theorem fail_ran {s : State} (h : Quiet s) (st : Status) (k : ResultKind) :
    Ran s (fail st k s) [] [⟨st, freeResult s.draws k⟩] where
  history := by simp
  responses := rfl
  lineDrv := h.1
  csHeld := h.2
  ie := rfl
  csSaved := by simp
  inputs := rfl
  cfg := rfl
  env := rfl
  allowed := trivial

theorem fail_keepsSearch (s : State) (st : Status) (k : ResultKind) : KeepsSearch s (fail st k s) := ⟨rfl, rfl⟩

/-- A named delay is one event. -/
theorem namedDelay_ran {s : State} (h : Quiet s) (t : Timing) : Ran s (namedDelay t s) [.delay t] [] where
  history := rfl
  responses := by simp
  lineDrv := h.1
  csHeld := h.2
  ie := rfl
  csSaved := by simp
  inputs := rfl
  cfg := rfl
  env := rfl
  allowed := ⟨allows_delay _ _, trivial⟩

theorem namedDelay_keepsSearch (s : State) (t : Timing) : KeepsSearch s (namedDelay t s) := ⟨rfl, rfl⟩

/-! ### Samples -/

/-- A sample of the environment moves the environment on, may use up a free value, and agrees with the answer the
environment has. -/
theorem envSample_spec (k : SampleKind) (s : State) :
    (∃ n, (envSample k s).1 = { s with env := Environment.afterSample s.cfg s.env k, draws := n }) ∧
    (∀ a, Environment.answerTo s.env k = some a → (envSample k s).2 = a) := by
  rcases hs : s.env with (_ | ⟨a, as⟩) | bus
  · exact ⟨⟨s.draws + 1, by simp only [envSample, hs, drawSample, Environment.afterSample, List.tail_nil]⟩,
      by simp [Environment.answerTo]⟩
  · exact ⟨⟨s.draws, by simp [envSample, hs, Environment.afterSample]⟩,
      by simp [envSample, hs, Environment.answerTo]⟩
  · cases ha : RefBus.answer bus k with
    | none =>
      exact ⟨⟨s.draws + 1, by simp [envSample, hs, ha, drawSample, Environment.afterSample]⟩,
        by simp [Environment.answerTo, ha]⟩
    | some a =>
      exact ⟨⟨s.draws, by simp [envSample, hs, ha, Environment.afterSample]⟩,
        by simp [envSample, hs, Environment.answerTo, ha]⟩

theorem lineSample_released (k : SampleKind) {s : State} (h : s.lineDrv = false) :
    lineSample k s = envSample k s := by
  simp [lineSample, h]

/-- "a sample taken while `LINE_DRV = 1` returns 0" (20_memory.md R32). -/
theorem lineSample_driven (k : SampleKind) {s : State} (h : s.lineDrv = true) : lineSample k s = (s, false) := by
  simp [lineSample, h]

/-! ### Slots and bytes -/

/-- A write-0 slot reads 0 (40_bus_transport.md R87). -/
@[simp] theorem slot_false_snd (s : State) : (slot false s).2 = false := rfl

/-- What `Slot(w)` does, from any state: one event, the line released, the critical section left with `IE` restored. -/
theorem slot_spec (w : Bool) (s : State) :
    ∃ n, (slot w s).1 =
        { s with
          lineDrv := false
          csHeld := false
          csSaved := s.ie
          history := s.history ++ [.slot w (slot w s).2]
          env := Environment.afterEvent s.cfg s.env (.slot w (slot w s).2)
          draws := n } ∧
      Environment.Allows s.env (.slot w (slot w s).2) := by
  cases w with
  | false =>
    refine ⟨s.draws, ?_, allows_slot_false _⟩
    cases he : s.env <;> simp [slot, slotWindow, envWriteZero, he, record, delay, csExit, csEnter, lineRelease,
      lineDriveLow, Environment.afterEvent]
  | true =>
    obtain ⟨⟨n, hn⟩, ha⟩ := envSample_spec .slot (lineRelease (lineDriveLow (csEnter s)))
    have hw : slotWindow true s = envSample .slot (lineRelease (lineDriveLow (csEnter s))) := rfl
    refine ⟨n, ?_, allows_of_sample rfl ha⟩
    simp only [slot, hw, hn]
    rfl

theorem slot_ran (w : Bool) (s : State) : Ran s (slot w s).1 [.slot w (slot w s).2] [] := by
  obtain ⟨n, h, ha⟩ := slot_spec w s
  exact Ran.of_eq h (by simp) ha

theorem slot_keepsSearch (w : Bool) (s : State) : KeepsSearch s (slot w s).1 := by
  obtain ⟨n, h, _⟩ := slot_spec w s
  rw [h]
  exact ⟨rfl, rfl⟩

@[simp] theorem slots_length (ws : List Bool) (s : State) : (slots ws s).2.length = ws.length := by
  induction ws generalizing s with
  | nil => rfl
  | cons w ws ih => simp [slots, ih]

theorem slots_ran {s : State} (h : Quiet s) (ws : List Bool) :
    Ran s (slots ws s).1 (List.zipWith .slot ws (slots ws s).2) [] := by
  induction ws generalizing s with
  | nil => exact Ran.refl h
  | cons w ws ih => exact (slot_ran w s).trans (ih (slot_ran w s).quiet)

theorem slots_keepsSearch (ws : List Bool) (s : State) : KeepsSearch s (slots ws s).1 := by
  induction ws generalizing s with
  | nil => exact KeepsSearch.refl s
  | cons w ws ih => exact (slot_keepsSearch w s).trans (ih _)

/-- A bit written 0 reads 0, in every slot of a list (40_bus_transport.md R87). -/
theorem slots_written_zero (ws : List Bool) (s : State) (i : Nat) (h : ws[i]? = some false) :
    (slots ws s).2[i]? = some false := by
  induction ws generalizing s i with
  | nil => simp at h
  | cons w ws ih =>
    cases i with
    | zero => simp only [List.getElem?_cons_zero, Option.some.injEq] at h; subst h; simp [slots]
    | succ i => simpa [slots] using ih _ i (by simpa using h)

/-- What `XferByte(v)` does (40_bus_transport.md R90). -/
theorem xferByte_ran {s : State} (h : Quiet s) (v : Byte) :
    Ran s (xferByte v s).1 (byteEvents v (xferByte v s).2) [] := by
  have := slots_ran h (byteBits v)
  rwa [zipWith_slot_byteBits v _ (by simp)] at this

theorem xferByte_keepsSearch (v : Byte) (s : State) : KeepsSearch s (xferByte v s).1 := slots_keepsSearch _ s

/-- "every bit written 0 reads 0" (40_bus_transport.md R90). -/
theorem xferByte_masked (v : Byte) (s : State) : (xferByte v s).2 &&& ~~~v = 0#8 := by
  apply BitVec.eq_of_getLsbD_eq
  intro i hi
  have hb := byteBits_getElem? v i hi
  simp only [xferByte, BitVec.getLsbD_and, BitVec.getLsbD_not, hi, byteOfBits_getLsbD _ _ hi]
  cases hv : v.getLsbD i with
  | true => simp
  | false =>
    rw [hv] at hb
    simp [slots_written_zero _ s i hb]

theorem bytesEvents_nil (r : List Byte) : bytesEvents [] r = [] := by cases r <;> rfl

theorem bytesEvents_append (a b r₁ r₂ : List Byte) (h : r₁.length = a.length) :
    bytesEvents (a ++ b) (r₁ ++ r₂) = bytesEvents a r₁ ++ bytesEvents b r₂ := by
  induction a generalizing r₁ with
  | nil => rw [List.length_nil, List.length_eq_zero_iff] at h; subst h; simp [bytesEvents_nil]
  | cons v vs ih =>
    cases r₁ with
    | nil => simp at h
    | cons r rs => simp [bytesEvents, ih rs (by simpa using h)]

theorem bytesEvents_length (a r : List Byte) (h : r.length = a.length) :
    (bytesEvents a r).length = 8 * a.length := by
  induction a generalizing r with
  | nil => simp [bytesEvents_nil]
  | cons v vs ih =>
    cases r with
    | nil => simp at h
    | cons r rs => simp [bytesEvents, ih rs (by simpa using h)]; omega

/-- Sending bytes is their transfers, one after the other. -/
theorem sendBytes_ran {s : State} (h : Quiet s) (bs : List Byte) :
    ∃ got, got.length = bs.length ∧ Ran s (sendBytes bs s) (bytesEvents bs got) [] := by
  induction bs generalizing s with
  | nil => exact ⟨[], rfl, Ran.refl h⟩
  | cons b bs ih =>
    obtain ⟨got, hl, hr⟩ := ih (xferByte_ran h b).quiet
    exact ⟨(xferByte b s).2 :: got, by simp [hl], (xferByte_ran h b).trans hr⟩

theorem sendBytes_keepsSearch (bs : List Byte) (s : State) : KeepsSearch s (sendBytes bs s) := by
  induction bs generalizing s with
  | nil => exact KeepsSearch.refl s
  | cons b bs ih => exact (xferByte_keepsSearch b s).trans (ih _)

@[simp] theorem receiveBytes_length (n : Nat) (s : State) : (receiveBytes n s).2.length = n := by
  induction n generalizing s with
  | zero => rfl
  | succ n ih => simp [receiveBytes, ih]

/-- Reading `n` bytes is `n` transfers of 0xFF (43_sensor_protocol.md R118). -/
theorem receiveBytes_ran {s : State} (h : Quiet s) (n : Nat) :
    Ran s (receiveBytes n s).1 (bytesEvents (List.replicate n 0xFF#8) (receiveBytes n s).2) [] := by
  induction n generalizing s with
  | zero => exact Ran.refl h
  | succ n ih => exact (xferByte_ran h 0xFF#8).trans (ih (xferByte_ran h 0xFF#8).quiet)

theorem receiveBytes_keepsSearch (n : Nat) (s : State) : KeepsSearch s (receiveBytes n s).1 := by
  induction n generalizing s with
  | zero => exact KeepsSearch.refl s
  | succ n ih => exact (xferByte_keepsSearch _ s).trans (ih _)

/-! ### Reset and selection -/

/-- What the pre-check does while the line is released (40_bus_transport.md R85). -/
theorem precheck_spec {s : State} (h : s.lineDrv = false) :
    ∃ n, (precheck s).1 =
        { s with
          history := s.history ++ [.precheck (precheck s).2]
          env := Environment.afterEvent s.cfg s.env (.precheck (precheck s).2)
          draws := n } ∧
      Environment.Allows s.env (.precheck (precheck s).2) := by
  obtain ⟨⟨n, hn⟩, ha⟩ := envSample_spec .precheck s
  have hp : precheck s = (record (.precheck (envSample .precheck s).2) (envSample .precheck s).1,
      (envSample .precheck s).2) := by
    simp [precheck, delay, lineSample_released _ h]
  refine ⟨n, ?_, allows_of_sample rfl (by rw [hp]; exact ha)⟩
  simp only [hp, hn]
  rfl

theorem precheck_ran {s : State} (h : Quiet s) : Ran s (precheck s).1 [.precheck (precheck s).2] [] := by
  obtain ⟨n, hn, ha⟩ := precheck_spec h.1
  refine Ran.of_eq (c := s.csSaved) (n := n) (hn.trans ?_) (by simp) ha
  simp only [h.1, h.2]

theorem precheck_keepsSearch {s : State} (h : Quiet s) : KeepsSearch s (precheck s).1 := by
  obtain ⟨n, hn, _⟩ := precheck_spec h.1
  rw [hn]
  exact ⟨rfl, rfl⟩

/-- What the pulse and the presence sample do, from any state (40_bus_transport.md R85). -/
theorem presencePulse_spec (s : State) :
    ∃ n, (presencePulse s).1 =
        { s with
          lineDrv := false
          csHeld := false
          csSaved := s.ie
          history := s.history ++ [.reset (presencePulse s).2]
          env := Environment.afterEvent s.cfg s.env (.reset (presencePulse s).2)
          draws := n } ∧
      Environment.Allows s.env (.reset (presencePulse s).2) := by
  obtain ⟨⟨n, hn⟩, ha⟩ := envSample_spec .presence (lineRelease (csEnter (lineDriveLow s)))
  have hp : presencePulse s =
      (record (.reset (presenceFlag (envSample .presence (lineRelease (csEnter (lineDriveLow s)))).2))
        (csExit (envSample .presence (lineRelease (csEnter (lineDriveLow s)))).1),
       presenceFlag (envSample .presence (lineRelease (csEnter (lineDriveLow s)))).2) := rfl
  refine ⟨n, ?_, allows_of_sample rfl (fun a h => ?_)⟩
  · simp only [hp, hn]
    rfl
  · rw [hp]
    simpa [presenceFlag] using ha a h

theorem presencePulse_ran (s : State) : Ran s (presencePulse s).1 [.reset (presencePulse s).2] [] := by
  obtain ⟨n, hn, ha⟩ := presencePulse_spec s
  exact Ran.of_eq hn (by simp) ha

theorem presencePulse_keepsSearch (s : State) : KeepsSearch s (presencePulse s).1 := by
  obtain ⟨n, hn, _⟩ := presencePulse_spec s
  rw [hn]
  exact ⟨rfl, rfl⟩

/-- `ResetPulse()` has three courses: the line held low, no presence, presence (40_bus_transport.md R85). -/
theorem resetPulse_cases {s : State} (h : Quiet s) :
    KeepsSearch s (resetPulse s).1 ∧
    (((resetPulse s).2 = false ∧ ∃ evs, ResetFailed evs ∧ Ran s (resetPulse s).1 evs []) ∨
     ((resetPulse s).2 = true ∧ Ran s (resetPulse s).1 resetOk [])) := by
  have hp := precheck_ran h
  have hk := precheck_keepsSearch h
  cases hc : (precheck s).2 with
  | false =>
    rw [hc] at hp
    have he : resetPulse s = ((precheck s).1, false) := by simp [resetPulse, hc]
    rw [he]
    exact ⟨hk, .inl ⟨rfl, _, .inl rfl, hp⟩⟩
  | true =>
    rw [hc] at hp
    have he : resetPulse s = presencePulse (precheck s).1 := by simp [resetPulse, hc]
    have hr := hp.trans (presencePulse_ran (precheck s).1)
    rw [he]
    refine ⟨hk.trans (presencePulse_keepsSearch _), ?_⟩
    cases hq : (presencePulse (precheck s).1).2 with
    | false =>
      rw [hq] at hr
      exact .inl ⟨rfl, _, .inr rfl, hr⟩
    | true =>
      rw [hq] at hr
      exact .inr ⟨rfl, hr⟩

/-- `Select(target)` either fails at its reset with nothing sent, or sends the bytes that select the target
(40_bus_transport.md R92). -/
theorem select_cases {s : State} (h : Quiet s) (t : Target) :
    KeepsSearch s (select t s).1 ∧
    (((select t s).2 = false ∧ ∃ evs, ResetFailed evs ∧ Ran s (select t s).1 evs []) ∨
     ((select t s).2 = true ∧ ∃ got, got.length = (selectBytes t).length ∧
        Ran s (select t s).1 (resetOk ++ bytesEvents (selectBytes t) got) [])) := by
  obtain ⟨hk, ⟨hf, evs, he, hr⟩ | ⟨ht, hr⟩⟩ := resetPulse_cases h
  · exact ⟨by simpa [select, hf] using hk, .inl ⟨by simp [select, hf], evs, he, by simpa [select, hf] using hr⟩⟩
  · obtain ⟨got, hl, hs⟩ := sendBytes_ran hr.quiet (selectBytes t)
    exact ⟨by simpa [select, ht] using hk.trans (sendBytes_keepsSearch _ _),
      .inr ⟨by simp [select, ht], got, hl, by simpa [select, ht] using hr.trans hs⟩⟩

/-- The addressed operations: what each does comes down to what it does after its command byte. -/
theorem addressed_ran {s : State} (h : Quiet s) (t : Target) (command : Byte) (kind : ResultKind)
    (next : State → State) (failed : List Response → Prop) (done : List Event → List Response → Prop)
    (hfail : ∀ n, failed [⟨.busFault, freeResult n kind⟩])
    (hnext : ∀ u, Quiet u → u.cfg = s.cfg → KeepsSearch u (next u) ∧ ∃ evs rs, Ran u (next u) evs rs ∧ done evs rs) :
    RanAddressed s (addressed t command kind next s) t command failed done := by
  obtain ⟨hk, ⟨hf, evs, he, hr⟩ | ⟨ht, got, hl, hr⟩⟩ := select_cases h t
  · simp only [RanAddressed, addressed, hf]
    exact ⟨hk.trans (fail_keepsSearch _ _ _),
      .inl ⟨evs, _, he, by simpa using hr.trans (fail_ran hr.quiet .busFault kind), hfail _⟩⟩
  · simp only [RanAddressed, addressed, ht]
    have hx := hr.trans (xferByte_ran hr.quiet command)
    obtain ⟨hkn, evs, rs, hn, hd⟩ := hnext _ hx.quiet hx.cfg
    refine ⟨(hk.trans (xferByte_keepsSearch _ _)).trans hkn,
      .inr ⟨got ++ [(xferByte command (select t s).1).2], evs, rs, by simp [hl], ?_, hd⟩⟩
    have := hx.trans hn
    rw [bytesEvents_append _ _ _ _ hl]
    simpa [bytesEvents, List.append_assoc] using this

/-! ### The guard of the critical section -/

/-- A quiet state never meets the refusal of a nested critical section (60_exceptions.md R141). -/
@[simp] theorem guardWindow_quiet (b : Bool) {s : State} (h : s.csHeld = false) (t : State) :
    guardWindow b s t = .next t := by
  simp [guardWindow, h]

end Sys2Proof.Machine
end

