-- ==== Sys2Proof/Laws/PerInstr.lean ====
section
/-! SUPPORT. What holds of every instruction as syntax, one lemma per constructor: the request of an instruction that
fits its format has the length that 30_encoding.md R66 gives that format. -/

namespace Sys2Proof.Laws.RequestLength

/-- The request of the instruction, if it is a host operation, has the length its first bytes announce. -/
def Statement (i : Instr) : Prop :=
  i.fits = true → ∀ bytes, encode i = .request bytes → bytes.length = requestLength bytes

/-- A format of constant length. -/
theorem of_eq {i : Instr} {words : List Byte} (h : encode i = .request words)
    (hl : words.length = requestLength words) : Statement i := by
  intro _ bytes hb
  rw [h] at hb
  cases hb
  exact hl

/-- A byte of the wire layer is no request. -/
theorem of_wire {i : Instr} {byte : Byte} (h : encode i = .wire byte) : Statement i := by
  intro _ bytes hb
  rw [h] at hb
  cases hb

/-- A format `T` behind any op byte for which the length is that of the target and one more. -/
theorem of_target {i : Instr} {op : Byte} {t : Target} (h : encode i = .request (op :: encodeTarget t))
    (hop : requestLength (op :: encodeTarget t) = 1 + targetLength (encodeTarget t)) : Statement i := by
  refine of_eq h ?_
  rw [hop, targetLength_encodeTarget, List.length_cons]
  omega

theorem busReset : Statement .busReset := of_eq rfl rfl
theorem writeBit (b : Bool) : Statement (.writeBit b) := of_eq rfl rfl
theorem writeByte (v : Byte) : Statement (.writeByte v) := of_eq rfl rfl

theorem addressedCommand (cmd : Byte) (t : Target) : Statement (.addressedCommand cmd t) := by
  refine of_eq rfl ?_
  have h : requestLength (0x03#8 :: cmd :: encodeTarget t) = 2 + targetLength (encodeTarget t) := rfl
  rw [h, targetLength_encodeTarget, List.length_cons, List.length_cons]
  omega

theorem crc8Update (c v : Byte) : Statement (.crc8Update c v) := of_eq rfl rfl

theorem crc8 (bytes : List Byte) : Statement (.crc8 bytes) := by
  intro hf words hw
  cases hw
  have h : bytes.length ≤ 255 := by simpa [Instr.fits] using hf
  have hl : requestLength (0x05#8 :: encodeSeq bytes) = 2 + (BitVec.ofNat 8 bytes.length).toNat := rfl
  rw [hl, BitVec.toNat_ofNat, List.length_cons, encodeSeq_length]
  omega

theorem crc8Check (bytes : List Byte) : Statement (.crc8Check bytes) := by
  intro hf words hw
  cases hw
  have h : bytes.length ≤ 255 := by simpa [Instr.fits] using hf
  have hl : requestLength (0x06#8 :: encodeSeq bytes) = 2 + (BitVec.ofNat 8 bytes.length).toNat := rfl
  rw [hl, BitVec.toNat_ofNat, List.length_cons, encodeSeq_length]
  omega

theorem searchReset : Statement .searchReset := of_eq rfl rfl
theorem search : Statement .search := of_eq rfl rfl
theorem startConversion (t : Target) : Statement (.startConversion t) := of_target rfl rfl
theorem conversionInProgress : Statement .conversionInProgress := of_eq rfl rfl
theorem parasitePowered (t : Target) : Statement (.parasitePowered t) := of_target rfl rfl
theorem readScratchpad (t : Target) : Statement (.readScratchpad t) := of_target rfl rfl

theorem writeScratchpad (t : Target) (th tl cfg : Byte) : Statement (.writeScratchpad t th tl cfg) := by
  refine of_eq rfl ?_
  have h : requestLength (0x0D#8 :: (encodeTarget t ++ [th, tl, cfg])) =
    4 + targetLength (encodeTarget t ++ [th, tl, cfg]) := rfl
  rw [h, targetLength_encodeTarget_append, List.length_cons, List.length_append]
  simp only [List.length_cons, List.length_nil]
  omega

theorem copyScratchpad (t : Target) : Statement (.copyScratchpad t) := of_target rfl rfl
theorem recallEeprom (t : Target) : Statement (.recallEeprom t) := of_target rfl rfl
theorem decodeTemperature (fam : Byte) (sp : Scratchpad) : Statement (.decodeTemperature fam sp) := of_eq rfl rfl
theorem readTemperature (t : Target) : Statement (.readTemperature t) := of_target rfl rfl
theorem readBit : Statement .readBit := of_eq rfl rfl
theorem readByte : Statement .readByte := of_eq rfl rfl
theorem wSearch : Statement .wSearch := of_wire rfl
theorem wMatch : Statement .wMatch := of_wire rfl
theorem wSkip : Statement .wSkip := of_wire rfl
theorem wConvert : Statement .wConvert := of_wire rfl
theorem wWriteScratchpad : Statement .wWriteScratchpad := of_wire rfl
theorem wReadScratchpad : Statement .wReadScratchpad := of_wire rfl
theorem wCopyScratchpad : Statement .wCopyScratchpad := of_wire rfl
theorem wRecallEeprom : Statement .wRecallEeprom := of_wire rfl
theorem wReadPowerSupply : Statement .wReadPowerSupply := of_wire rfl

end Sys2Proof.Laws.RequestLength
end

