-- ==== Sys2Proof/Laws/Search.lean ====
section
/-! SUPPORT. What the walk of `SEARCH` can do, said once: the positions it visits, what it records, and the address it
builds. -/

namespace Sys2Proof.Machine

/-- The address after the positions from `p` on got the bits of these visits. -/
def addressAfter (addr : Address) (p : Nat) : List Visit → Address
  | [] => addr
  | v :: vs => addressAfter (setAddressBit addr p v.d) (p + 1) vs

/-- Setting one address bit changes that bit alone (42_device_search_engine.md R109). -/
theorem setAddressBit_getLsbD (a : Address) (p : Nat) (d : Bool) (j : Nat) (hj : j < 64) :
    (setAddressBit a p d).getLsbD j = if j = p - 1 then d else a.getLsbD j := by
  by_cases h : j = p - 1
  · subst h
    cases d <;> simp [setAddressBit, hj]
  · have h1 : ((1#64 <<< (p - 1)).getLsbD j) = false := by
      simp only [BitVec.getLsbD_shiftLeft, hj, decide_true, Bool.true_and]
      by_cases hlt : j < p - 1
      · simp [hlt]
      · have : j - (p - 1) ≠ 0 := by omega
        simp [hlt, this]
    cases d <;> simp only [setAddressBit, h, h1, hj, BitVec.getLsbD_or, BitVec.getLsbD_and, BitVec.getLsbD_not, if_false,
      if_true, Bool.false_eq_true, Bool.or_false, Bool.not_false, decide_true, Bool.and_true]

/-- The bits of `addressAfter`: the visited positions hold the bits written, the others are as before. -/
theorem addressAfter_getLsbD (vs : List Visit) (addr : Address) (p : Nat) (hp : 1 ≤ p) (j : Nat) (hj : j < 64) :
    (addressAfter addr p vs).getLsbD j =
      if h : p - 1 ≤ j ∧ j - (p - 1) < vs.length then (vs[j - (p - 1)]'h.2).d else addr.getLsbD j := by
  induction vs generalizing addr p with
  | nil => simp [addressAfter]
  | cons v vs ih =>
    rw [addressAfter, ih _ _ (by omega), setAddressBit_getLsbD _ _ _ _ hj]
    by_cases h0 : j = p - 1
    · subst h0
      simp [show ¬ p ≤ p - 1 by omega]
    · by_cases h1 : p - 1 ≤ j
      · obtain ⟨k, hk⟩ : ∃ k, j - (p - 1) = k + 1 := ⟨j - p, by omega⟩
        have hk' : j - (p + 1 - 1) = k := by omega
        simp only [hk, hk', List.length_cons, List.getElem_cons_succ, h0, if_false]
        have ha : p + 1 - 1 ≤ j := by omega
        simp only [ha, h1, true_and, Nat.add_lt_add_iff_right]
      · have ha : ¬ p + 1 - 1 ≤ j := by omega
        simp only [h0, h1, ha, false_and, if_false, dite_false]

/-- What `Choose` answers on a pair that is not (1,1) (42_device_search_engine.md R108). -/
theorem choose_some {p ldc : Nat} {a b : Bool} {prev : Address} (h : (a && b) = false) (r : Bool) :
    choose p a b ldc prev =
      some (chosenBit ldc prev p ⟨a, b, r, r⟩, decide (a = false ∧ b = false ∧ chosenBit ldc prev p ⟨a, b, r, r⟩ = false)) := by
  cases a <;> cases b
  · show some (_, !_) = some (_, _)
    simp only [chosenBit, addressBit, ne_eq, not_true_eq_false, if_false, true_and]
    cases (if p < ldc then prev.getLsbD (p - 1) else decide (p = ldc)) <;> rfl
  · rfl
  · rfl
  · cases h

/-- The two courses of the walk over `n` positions from `p` on: it met the (1,1) pair at an earlier position and stopped
there, or it visited them all (42_device_search_engine.md R109). -/
theorem searchWalk_cases (n : Nat) {s : State} (h : Quiet s) (p ldc : Nat) (prev : Address) (lz : Nat) (addr : Address) :
    let w := searchWalk n p ldc prev lz addr s
    KeepsSearch s w.1 ∧
    ((w.2 = none ∧ ∃ vs, vs.length < n ∧ WalksFrom ldc prev p vs ∧
        Ran s w.1 (visitEvents vs ++ [.slot true true, .slot true true]) []) ∨
     (∃ vs, vs.length = n ∧ WalksFrom ldc prev p vs ∧ w.2 = some (deepestZero lz p vs, addressAfter addr p vs) ∧
        Ran s w.1 (visitEvents vs) [])) := by
  induction n generalizing s p lz addr with
  | zero => exact ⟨KeepsSearch.refl s, .inr ⟨[], rfl, trivial, rfl, Ran.refl h⟩⟩
  | succ n ih =>
    have ha := slot_ran true s
    have hb := ha.trans (slot_ran true (slot true s).1)
    have hk := (slot_keepsSearch true s).trans (slot_keepsSearch true (slot true s).1)
    cases hab : (slot true s).2 && (slot true (slot true s).1).2 with
    | true =>
      obtain ⟨h1, h2⟩ := Bool.and_eq_true_iff.mp hab
      rw [h1, h2] at hb
      have hw : searchWalk (n + 1) p ldc prev lz addr s = ((slot true (slot true s).1).1, none) := by
        simp [searchWalk, choose, h1, h2]
      simp only [hw]
      exact ⟨hk, .inl ⟨trivial, [], by simp, trivial, hb⟩⟩
    | false =>
      have hc := choose_some (p := p) (ldc := ldc) (prev := prev) hab false
      have hd := hb.trans (slot_ran (chosenBit ldc prev p ⟨(slot true s).2, (slot true (slot true s).1).2, false, false⟩)
        (slot true (slot true s).1).1)
      generalize hdd : chosenBit ldc prev p ⟨(slot true s).2, (slot true (slot true s).1).2, false, false⟩ = d at hc hd
      generalize hr : (slot d (slot true (slot true s).1).1).2 = r at hd
      have hd' : d = chosenBit ldc prev p ⟨(slot true s).2, (slot true (slot true s).1).2, d, r⟩ := hdd.symm
      have hw : searchWalk (n + 1) p ldc prev lz addr s =
          searchWalk n (p + 1) ldc prev
            (if (slot true s).2 = false ∧ (slot true (slot true s).1).2 = false ∧ d = false then p else lz)
            (setAddressBit addr p d) (slot d (slot true (slot true s).1).1).1 := by
        simp only [searchWalk, hc, decide_eq_true_eq]
      simp only [hw]
      obtain ⟨hk', hcase⟩ := ih hd.quiet (p + 1)
        (if (slot true s).2 = false ∧ (slot true (slot true s).1).2 = false ∧ d = false then p else lz)
        (setAddressBit addr p d)
      refine ⟨(hk.trans (slot_keepsSearch _ _)).trans hk', ?_⟩
      rcases hcase with ⟨hn, vs, hl, hv, hrn⟩ | ⟨vs, hl, hv, hs, hrn⟩
      · exact .inl ⟨hn, ⟨_, _, d, r⟩ :: vs, by simpa using hl, ⟨hab, hd', hv⟩, by
          simpa [visitEvents, Visit.events] using hd.trans hrn⟩
      · exact .inr ⟨⟨_, _, d, r⟩ :: vs, by simpa using hl, ⟨hab, hd', hv⟩, hs, by
          simpa [visitEvents, Visit.events] using hd.trans hrn⟩

end Sys2Proof.Machine
end

