-- ==== Sys2Proof/Laws/Timing.lean ====
section
/-! SUPPORT. The timing parameters reach no operation: each primitive commutes with giving the state other parameters that
differ in the timing alone (70_reset_and_hazards.md R150). -/

namespace Sys2Proof.Machine

/-- The state with other parameters. -/
abbrev withCfg (p : Params) (s : State) : State := { s with cfg := p }

variable {s : State} {p : Params}

theorem refBus_slot_timing {q : Params} (h : SameButTiming q p) (w : Bool) (bus : RefBus) :
    RefBus.slot p w bus = RefBus.slot q w bus := by
  have hs : storePayload p = storePayload q := by
    funext index v d
    simp only [storePayload, h.2.1, h.2.2.1]
  have hr : Device.receive p = Device.receive q := by
    funext index v d
    simp only [Device.receive, hs]
  simp only [RefBus.slot, hr]

theorem refBus_after_timing {q : Params} (h : SameButTiming q p) (k : SampleKind) (bus : RefBus) :
    RefBus.after p bus k = RefBus.after q bus k := by
  cases k <;> simp only [RefBus.after, refBus_slot_timing h]

theorem lineSample_timing (h : SameButTiming s.cfg p) (k : SampleKind) :
    lineSample k (withCfg p s) = (withCfg p (lineSample k s).1, (lineSample k s).2) := by
  cases hl : s.lineDrv with
  | true => simp only [lineSample, hl, if_true]
  | false =>
    cases he : s.env with
    | answers as => cases as <;> simp only [lineSample, envSample, drawSample, hl, he, Bool.false_eq_true, if_false]
    | reference bus =>
      simp only [lineSample, envSample, drawSample, hl, he, Bool.false_eq_true, if_false, refBus_after_timing h]
      cases RefBus.answer bus k <;> rfl

theorem envWriteZero_timing (h : SameButTiming s.cfg p) :
    envWriteZero (withCfg p s) = withCfg p (envWriteZero s) := by
  cases he : s.env <;> simp only [envWriteZero, he, refBus_slot_timing h]

/-- A slot with other timing is the same slot (40_bus_transport.md R87). -/
theorem slot_timing (h : SameButTiming s.cfg p) (w : Bool) :
    slot w (withCfg p s) = (withCfg p (slot w s).1, (slot w s).2) := by
  cases w
  · have hz := envWriteZero_timing (s := lineRelease (lineDriveLow (csEnter s))) (p := p) h
    exact congrArg (fun u => (record (.slot false false) (csExit u), false)) hz
  · have hz := lineSample_timing (s := lineRelease (lineDriveLow (csEnter s))) (p := p) h .slot
    exact congrArg (fun r : State × Bool => (record (.slot true r.2) (csExit r.1), r.2)) hz

/-- A reset with other timing is the same reset (40_bus_transport.md R85). -/
theorem precheck_timing (h : SameButTiming s.cfg p) :
    precheck (withCfg p s) = (withCfg p (precheck s).1, (precheck s).2) :=
  congrArg (fun r : State × Bool => (record (.precheck r.2) r.1, r.2)) (lineSample_timing h .precheck)

theorem presencePulse_timing (h : SameButTiming s.cfg p) :
    presencePulse (withCfg p s) = (withCfg p (presencePulse s).1, (presencePulse s).2) := by
  have hz := lineSample_timing (s := lineRelease (csEnter (lineDriveLow s))) (p := p) h .presence
  exact congrArg (fun r : State × Bool =>
    (record (.reset (presenceFlag r.2)) (csExit r.1), presenceFlag r.2)) hz

end Sys2Proof.Machine
end

