-- ==== Sys2Proof/Machine/Assembler.lean ====
section
/-! DEFINITION. The text form of a program (30_encoding.md R75): one operation per line, `MNEMONIC` and its operands
separated by commas, in the order of R66. The pseudo-instructions of R76 are mnemonics too. Log entry 24. -/

namespace Sys2Proof.Machine

/-- Whether a character separates words. -/
def isBlank (c : Char) : Bool := c == ' ' || c == '\t'

/-- The text without the blanks at both ends. -/
def trimText (cs : List Char) : List Char := ((cs.dropWhile isBlank).reverse.dropWhile isBlank).reverse

/-- The parts of a text between the characters for which the test holds; a text with none is one part. -/
def splitText (sep : Char → Bool) : List Char → List (List Char)
  | [] => [[]]
  | c :: cs =>
    match splitText sep cs with
    | [] => [[]]
    | part :: parts => if sep c then [] :: part :: parts else (c :: part) :: parts

/-- The sixteen digits of R75, each at the place of its value. -/
def digitRow : List Char := "0123456789abcdef".toList

/-- The value of a hexadecimal digit, in either case: its place in the row. -/
def hexDigit (c : Char) : Option Nat := digitRow.idxOf? c.toLower

/-- The value of digits in a base, continued from `acc`. -/
def digitsFrom (base acc : Nat) : List Char → Option Nat
  | [] => some acc
  | c :: cs =>
    match hexDigit c with
    | some d => if d < base then digitsFrom base (acc * base + d) cs else none
    | none => none

/-- A number: hexadecimal with `0x`, or decimal (R75). -/
def parseNumber : List Char → Option Nat
  | '0' :: 'x' :: c :: cs => digitsFrom 16 0 (c :: cs)
  | c :: cs => digitsFrom 10 0 (c :: cs)
  | [] => none

/-- A number that fits a byte. -/
def parseByte (cs : List Char) : Option Byte :=
  match parseNumber (trimText cs) with
  | some n => if n < 256 then some (BitVec.ofNat 8 n) else none
  | none => none

/-- A byte written as two hexadecimal digits, as in an address or a byte sequence (R75). -/
def parseHexByte : List Char → Option Byte
  | [a, b] =>
    match digitsFrom 16 0 [a, b] with
    | some n => some (BitVec.ofNat 8 n)
    | none => none
  | _ => none

/-- All the parts, or nothing. -/
def parseAll {α : Type} (f : List Char → Option α) : List (List Char) → Option (List α)
  | [] => some []
  | c :: cs =>
    match f c, parseAll f cs with
    | some x, some xs => some (x :: xs)
    | _, _ => none

/-- A target: `*`, or eight bytes in byte order joined by `-` (R75). -/
def parseTarget (cs : List Char) : Option Target :=
  match trimText cs with
  | ['*'] => some .broadcast
  | text =>
    match parseAll parseHexByte (splitText (· == '-') text) with
    | some [b0, b1, b2, b3, b4, b5, b6, b7] => some (.address (addressOfBytes b0 b1 b2 b3 b4 b5 b6 b7))
    | _ => none

/-- A byte sequence `[b0 b1 ...]`, its count implied (R75). -/
def parseSequence (cs : List Char) : Option (List Byte) :=
  match trimText cs with
  | '[' :: rest =>
    match rest.reverse with
    | ']' :: inner => parseAll parseHexByte ((splitText isBlank inner.reverse).filter (fun w => !w.isEmpty))
    | _ => none
  | _ => none

/-- The operands of one line, by mnemonic (R69, R75, R76). -/
def parseOperands (mnemonic : String) (operands : List (List Char)) : Option Instr :=
  match mnemonic, operands with
  | "BUS_RESET", [] => some .busReset
  | "WRITE_BIT", [b] =>
    match parseByte b with
    | some v => if v = 0#8 then some (.writeBit false) else if v = 1#8 then some (.writeBit true) else none
    | none => none
  | "READ_BIT", [] => some .readBit
  | "WRITE_BYTE", [v] => (parseByte v).map .writeByte
  | "READ_BYTE", [] => some .readByte
  | "ADDRESSED_COMMAND", [c, t] => (parseByte c).bind fun cmd => (parseTarget t).map (.addressedCommand cmd)
  | "CRC8_UPDATE", [c, v] => (parseByte c).bind fun crc => (parseByte v).map (.crc8Update crc)
  | "CRC8", [bs] => (parseSequence bs).map .crc8
  | "CRC8_CHECK", [bs] => (parseSequence bs).map .crc8Check
  | "SEARCH_RESET", [] => some .searchReset
  | "SEARCH", [] => some .search
  | "START_CONVERSION", [t] => (parseTarget t).map .startConversion
  | "CONVERSION_IN_PROGRESS", [] => some .conversionInProgress
  | "PARASITE_POWERED", [t] => (parseTarget t).map .parasitePowered
  | "READ_SCRATCHPAD", [t] => (parseTarget t).map .readScratchpad
  | "WRITE_SCRATCHPAD", [t, h, l, c] =>
    match parseTarget t, parseByte h, parseByte l, parseByte c with
    | some tg, some th, some tl, some cfg => some (.writeScratchpad tg th tl cfg)
    | _, _, _, _ => none
  | "COPY_SCRATCHPAD", [t] => (parseTarget t).map .copyScratchpad
  | "RECALL_EEPROM", [t] => (parseTarget t).map .recallEeprom
  | "DECODE_TEMPERATURE", [f, bs] =>
    match parseByte f, parseSequence bs with
    | some fam, some [b0, b1, b2, b3, b4, b5, b6, b7, b8] =>
      some (.decodeTemperature fam ⟨b0, b1, b2, b3, b4, b5, b6, b7, b8⟩)
    | _, _ => none
  | "READ_TEMPERATURE", [t] => (parseTarget t).map .readTemperature
  | _, _ => none

/-- One line: the operation it holds, if any (R75). The outer option is none for a line that is no text of R75. -/
def parseLine (cs : List Char) : Option (Option Instr) :=
  let text := trimText (cs.takeWhile (fun c => c != ';'))
  match text with
  | [] => some none
  | _ =>
    let mnemonic := String.ofList (text.takeWhile (fun c => !isBlank c))
    let rest := trimText (text.dropWhile (fun c => !isBlank c))
    match parseOperands mnemonic (if rest.isEmpty then [] else splitText (· == ',') rest) with
    | some i => some (some i)
    | none => none

/-- A program text: the operations of its lines, in order (R75). -/
def assemble (program : String) : Option (List Instr) :=
  (parseAll parseLine (splitText (· == '\n') program.toList)).map (fun lines => lines.filterMap id)

/-- A program placed in the queue of requests, after what already stands there. -/
def loadProgram (program : List Instr) (s : State) : State :=
  { s with inputs := s.inputs ++ program.map (fun i => .frame (encode i)) }

end Sys2Proof.Machine
end

