-- ==== Sys2Proof/Tests/Slice0.lean ====
section
/-! SUPPORT. Tests. The expected values are those of spec/95_test_vectors.md (its number stands before each test) or are
written out from the spec's encoding tables; none is the model's own answer. After the tests stand the witnesses: for each
statement with hypotheses, a state and operands that meet all of them. -/

namespace Sys2Proof.Tests

open Sys2Proof Sys2Proof.Machine

set_option maxRecDepth 8000

/-! ### Small states -/

/-- Parameters with the default families and three recall polls. -/
def cfg3 : Params where
  familyA := 0x10#8
  familyB := 0x28#8
  familyC := 0x22#8
  recallMaxPolls := 3
  tPrecheck := 250
  tRstl := 480
  tMsp := 70
  tRsth := 410
  tW1l := 6
  tRdv := 9
  tW1rec := 55
  tW0l := 60
  tW0rec := 10
  tCopySettle := 10000
  tRecallPoll := 5

/-- The addresses of the devices `Z`, `B2` and `X` of 95_test_vectors.md. -/
def zRom : Address := 0x750000000000A128#64
def b2Rom : Address := 0x2C0000000000A228#64
def xRom : Address := 0x900000000000A110#64

def zSp : Scratchpad := ⟨0x91#8, 0x01#8, 0x4B#8, 0x46#8, 0x7F#8, 0xFF#8, 0x0C#8, 0x10#8, 0x70#8⟩
def xSp : Scratchpad := ⟨0x32#8, 0x00#8, 0x4B#8, 0x46#8, 0xFF#8, 0xFF#8, 0x0C#8, 0x10#8, 0x6B#8⟩
def z : Device := ⟨zRom, zSp, false, false⟩
def b2 : Device := ⟨b2Rom, zSp, false, false⟩
def x : Device := ⟨xRom, xSp, false, false⟩
def xParasite : Device := { x with parasite := true }

/-- A reference bus with the parameters of 95_test_vectors.md. -/
def busOf (devices : List Device) : RefBus := ⟨false, devices, .unspecified, 2, 1⟩

def on (e : Environment) : State := { State.reset with env := e, cfg := cfg3, ie := true }
def onBus (devices : List Device) : State := on (.reference (busOf devices))
def onShort : State := on (.reference ⟨true, [z], .unspecified, 2, 1⟩)
def answered (bits : List Bool) : State := on (.answers bits)
def asked (f : Frame) : State := { onBus [z] with inputs := [.frame f] }

/-- What a test looks at in the next state. -/
def look {α : Type} (f : State → α) : Host.Outcome State Fault Refusal → Option α
  | .next t => some (f t)
  | .fault _ => none
  | .refused _ => none

def refusalOf {α : Type} : Host.Outcome α Fault Refusal → Option Refusal
  | .next _ => none
  | .fault _ => none
  | .refused r => some r

/-- The responses as the host receives them (30_encoding.md R68), and the bus history. -/
def seen (t : State) : List (List Byte) × List Event := (t.responses.map Response.bytes, t.history)

/-- The responses, and the number of events. -/
def counted (t : State) : List (List Byte) × Nat := (t.responses.map Response.bytes, t.history.length)

/-- The statuses, and the number of events. -/
def statuses (t : State) : List Status × Nat := (t.responses.map (fun r => r.status), t.history.length)

def searchState (t : State) : Byte × Address := (t.searchLd, t.searchRom)

def scratchpads (t : State) : List Scratchpad :=
  match t.env with
  | .answers _ => []
  | .reference bus => bus.devices.map (fun d => d.sp)

/-! ### Well-formedness: each check refuses an ill-formed term -/

theorem test_wellFormed_crc8_too_long : Instr.wellFormed cfg3 (.crc8 (List.replicate 256 0x00#8)) = false := by decide

theorem test_wellFormed_crc8Check_too_long :
    Instr.wellFormed cfg3 (.crc8Check (List.replicate 256 0x00#8)) = false := by decide

theorem test_wellFormed_crc8Check_empty : Instr.wellFormed cfg3 (.crc8Check []) = false := by decide

theorem test_wellFormed_readTemperature_broadcast :
    Instr.wellFormed cfg3 (.readTemperature .broadcast) = false := by decide

theorem test_wellFormed_readTemperature_family :
    Instr.wellFormed cfg3 (.readTemperature (.address 0x42#64)) = false := by decide

theorem test_wellFormed_decodeTemperature_family :
    Instr.wellFormed cfg3 (.decodeTemperature 0x42#8 zSp) = false := by decide

theorem test_wellFormed_accepts :
    Instr.wellFormed cfg3 (.readTemperature (.address zRom)) = true ∧
    Instr.wellFormed cfg3 (.crc8Check [0x00#8]) = true ∧
    Instr.wellFormed cfg3 (.crc8 (List.replicate 255 0x00#8)) = true := by decide

/-! ### Decoding: words written out from 30_encoding.md R66, R67, R69 and R71 -/

theorem test_decode_transport :
    decode (.request [0x00#8]) = .ok .busReset ∧
    decode (.request [0x01#8, 0x00#8]) = .ok (.writeBit false) ∧
    decode (.request [0x01#8, 0x01#8]) = .ok .readBit ∧
    decode (.request [0x02#8, 0xCC#8]) = .ok (.writeByte 0xCC#8) ∧
    decode (.request [0x02#8, 0xFF#8]) = .ok .readByte ∧
    decode (.request [0x03#8, 0x44#8, 0x00#8]) = .ok (.addressedCommand 0x44#8 .broadcast) ∧
    decode (.request [0x03#8, 0x44#8, 0x01#8, 0x28#8, 0xA1#8, 0x00#8, 0x00#8, 0x00#8, 0x00#8, 0x00#8, 0x75#8]) =
      .ok (.addressedCommand 0x44#8 (.address zRom)) := by decide

theorem test_decode_crc8 :
    decode (.request [0x04#8, 0x5E#8, 0x02#8]) = .ok (.crc8Update 0x5E#8 0x02#8) ∧
    decode (.request [0x05#8, 0x03#8, 0x02#8, 0x1C#8, 0xB8#8]) = .ok (.crc8 [0x02#8, 0x1C#8, 0xB8#8]) ∧
    decode (.request [0x05#8, 0x00#8]) = .ok (.crc8 []) ∧
    decode (.request [0x06#8, 0x01#8, 0x07#8]) = .ok (.crc8Check [0x07#8]) := by decide

theorem test_decode_search :
    decode (.request [0x07#8]) = .ok .searchReset ∧ decode (.request [0x08#8]) = .ok .search := by decide

theorem test_decode_sensor :
    decode (.request [0x09#8, 0x00#8]) = .ok (.startConversion .broadcast) ∧
    decode (.request [0x0A#8]) = .ok .conversionInProgress ∧
    decode (.request [0x0B#8, 0x00#8]) = .ok (.parasitePowered .broadcast) ∧
    decode (.request [0x0C#8, 0x01#8, 0x28#8, 0xA1#8, 0x00#8, 0x00#8, 0x00#8, 0x00#8, 0x00#8, 0x75#8]) =
      .ok (.readScratchpad (.address zRom)) ∧
    decode (.request [0x0D#8, 0x00#8, 0x1E#8, 0x0A#8, 0x1F#8]) =
      .ok (.writeScratchpad .broadcast 0x1E#8 0x0A#8 0x1F#8) ∧
    decode (.request [0x0E#8, 0x00#8]) = .ok (.copyScratchpad .broadcast) ∧
    decode (.request [0x0F#8, 0x01#8, 0x10#8, 0xA1#8, 0x00#8, 0x00#8, 0x00#8, 0x00#8, 0x00#8, 0x90#8]) =
      .ok (.recallEeprom (.address xRom)) := by decide

theorem test_decode_temperature :
    decode (.request [0x10#8, 0x28#8, 0x91#8, 0x01#8, 0x4B#8, 0x46#8, 0x7F#8, 0xFF#8, 0x0C#8, 0x10#8, 0x70#8]) =
      .ok (.decodeTemperature 0x28#8 zSp) ∧
    decode (.request [0x11#8, 0x01#8, 0x28#8, 0xA1#8, 0x00#8, 0x00#8, 0x00#8, 0x00#8, 0x00#8, 0x75#8]) =
      .ok (.readTemperature (.address zRom)) := by decide

theorem test_decode_wire :
    decode (.wire 0xF0#8) = .ok .wSearch ∧ decode (.wire 0x55#8) = .ok .wMatch ∧ decode (.wire 0xCC#8) = .ok .wSkip ∧
    decode (.wire 0x44#8) = .ok .wConvert ∧ decode (.wire 0x4E#8) = .ok .wWriteScratchpad ∧
    decode (.wire 0xBE#8) = .ok .wReadScratchpad ∧ decode (.wire 0x48#8) = .ok .wCopyScratchpad ∧
    decode (.wire 0xB8#8) = .ok .wRecallEeprom ∧ decode (.wire 0xB4#8) = .ok .wReadPowerSupply := by decide

/-- The words of spec/opcode_table.json, one row of each kind. -/
theorem test_decodeTableWord :
    decodeTableWord 8 0x03 = some (.addressedCommand 0x00#8 .broadcast) ∧
    decodeTableWord 16 0x0101 = some .readBit ∧ decodeTableWord 16 0x02FF = some .readByte ∧
    decodeTableWord 8 0x10 = some (.decodeTemperature 0x00#8 ⟨0, 0, 0, 0, 0, 0, 0, 0, 0⟩) ∧
    decodeTableWord 8 0xB4 = some .wReadPowerSupply ∧ decodeTableWord 8 0x12 = none := by decide

/-- The instruction of a row is the first to run after reset. -/
theorem test_withFetchWord_crc8Update :
    look (fun t => (t.responses.map Response.bytes, t.inputs)) (step (State.reset.withFetchWord 8 0x04)) =
      some ([[0x00#8, 0x00#8]], []) := by decide

/-- V-T7, V-T15, V-E1, V-E2, V-E3: refused by the reason that 30_encoding.md R70 gives. -/
theorem test_step_refuses_malformed :
    refusalOf (step (asked (.request [0x01#8, 0x02#8]))) = some (.malformed .badBitOperand) ∧
    refusalOf (step (asked (.request [0x03#8, 0x44#8, 0x02#8]))) = some (.malformed .badTargetTag) ∧
    refusalOf (step (asked (.request [0x12#8]))) = some (.malformed .unassignedOp) ∧
    refusalOf (step (asked (.request [0xFF#8]))) = some (.malformed .unassignedOp) ∧
    refusalOf (step (asked (.request [0x00#8, 0x00#8]))) = some (.malformed .wrongLength) := by decide

/-! ### The text form of 30_encoding.md R75 -/

theorem test_assemble :
    assemble "START_CONVERSION *  ; all\nCRC8_UPDATE 0x00, 1" = some [.startConversion .broadcast, .crc8Update 0 1] ∧
    assemble "READ_SCRATCHPAD 28-A1-00-00-00-00-00-75" = some [.readScratchpad (.address zRom)] ∧
    assemble "CRC8 [02 1C]\nREAD_BIT" = some [.crc8 [0x02#8, 0x1C#8], .readBit] ∧
    assemble "CRC8_UPDATE 0x100, 1" = none := by decide

/-! ### Transport -/

/-- V-T1. -/
theorem test_busReset_presence :
    look seen (exec .busReset (onBus [z])) = some ([[0x00#8]], [.precheck true, .reset true]) := by decide

/-- V-T2, V-T3. -/
theorem test_busReset_fails :
    look seen (exec .busReset (onBus [])) = some ([[0x01#8]], [.precheck true, .reset false]) ∧
    look seen (exec .busReset onShort) = some ([[0x01#8]], [.precheck false]) := by decide

/-- V-T4. -/
theorem test_writeBit_zero :
    look seen (exec (.writeBit false) (onBus [z])) = some ([[0x00#8, 0x00#8]], [.slot false false]) := by decide

/-- V-T5, V-T6. -/
theorem test_readBit :
    look seen (exec .readBit (onBus [])) = some ([[0x00#8, 0x01#8]], [.slot true true]) ∧
    look seen (exec .readBit (answered [false])) = some ([[0x00#8, 0x00#8]], [.slot true false]) := by decide

/-- V-T8. -/
theorem test_writeByte :
    look seen (exec (.writeByte 0xCC#8) (onBus [])) = some ([[0x00#8, 0xCC#8]],
      [.slot false false, .slot false false, .slot true true, .slot true true,
       .slot false false, .slot false false, .slot true true, .slot true true]) := by decide

/-- V-T10. -/
theorem test_readByte :
    look seen (exec .readByte (answered [false, true, false, true, true, false, true, false])) = some ([[0x00#8, 0x5A#8]],
      [.slot true false, .slot true true, .slot true false, .slot true true,
       .slot true true, .slot true false, .slot true true, .slot true false]) := by decide

/-- V-T12. -/
theorem test_addressedCommand_broadcast :
    look counted (exec (.addressedCommand 0x44#8 .broadcast) (onBus [z])) = some ([[0x00#8]], 18) := by decide

/-- V-T14. -/
theorem test_addressedCommand_emptyBus :
    look seen (exec (.addressedCommand 0x44#8 .broadcast) (onBus [])) =
      some ([[0x01#8]], [.precheck true, .reset false]) := by decide

/-- V-T16, V-E9: `IE` as at entry, `CS_SAVED` the saved value, the line released and the critical section left. -/
theorem test_slot_leaves_the_critical_section :
    look (fun t => (t.ie, t.csSaved, t.csHeld, t.lineDrv)) (exec (.writeBit false) (onBus [z])) =
      some (true, true, false, false) := by decide

/-! ### CRC-8 -/

/-- V-C1, V-C4. -/
theorem test_crc8Update :
    look seen (exec (.crc8Update 0x00#8 0x01#8) (onBus [])) = some ([[0x00#8, 0x5E#8]], []) ∧
    look seen (exec (.crc8Update 0x5E#8 0x02#8) (onBus [])) = some ([[0x00#8, 0x78#8]], []) := by decide

/-- V-C6 and V-C12. -/
theorem test_crc8 :
    look seen (exec (.crc8 [0x31#8, 0x32#8, 0x33#8, 0x34#8, 0x35#8, 0x36#8, 0x37#8, 0x38#8, 0x39#8]) (onBus [])) =
      some ([[0x00#8, 0xA1#8]], []) ∧
    look seen (exec (.crc8 []) (onBus [])) = some ([[0x00#8, 0x00#8]], []) := by decide

/-- V-C15. -/
theorem test_crc8Check_passes :
    look seen (exec (.crc8Check [0x28#8, 0xA1#8, 0x00#8, 0x00#8, 0x00#8, 0x00#8, 0x00#8, 0x75#8]) (onBus [])) =
      some ([[0x00#8]], []) := by decide

/-- V-C16, V-C22. -/
theorem test_crc8Check_fails :
    look seen (exec (.crc8Check [0x28#8, 0xA1#8, 0x00#8, 0x00#8, 0x00#8, 0x00#8, 0x00#8, 0x76#8]) (onBus [])) =
      some ([[0x03#8]], []) ∧
    refusalOf (exec (.crc8Check []) (onBus [])) = some .noCheckByte := by decide

/-! ### Search -/

/-- V-S9. -/
theorem test_searchReset :
    look (fun t => (seen t, searchState t)) (exec .searchReset { onBus [z] with searchLd := 0#8, searchRom := zRom }) =
      some (([[0x00#8]], []), 0xFF#8, 0#64) := by decide

/-- V-S3, calls 1 and 2 on the devices `Z`, `B2`, `X`: from `FRESH`, and from the state that call 1 leaves. -/
theorem test_search_three_devices :
    look (fun t => (counted t, searchState t)) (exec .search (onBus [z, b2, x])) =
      some (([[0x00#8, 0x10#8, 0xA1#8, 0x00#8, 0x00#8, 0x00#8, 0x00#8, 0x00#8, 0x90#8, 0x01#8]], 202), 4#8, xRom) ∧
    look (fun t => (counted t, searchState t)) (exec .search { onBus [z, b2, x] with searchLd := 4#8, searchRom := xRom }) =
      some (([[0x00#8, 0x28#8, 0xA2#8, 0x00#8, 0x00#8, 0x00#8, 0x00#8, 0x00#8, 0x2C#8, 0x01#8]], 202), 9#8, b2Rom) := by
  decide

/-- V-E4 and V-S7: `DONE` before the reset, and a (1,1) pair at position 1 after 12 events. -/
theorem test_search_fails :
    look statuses (exec .search { onShort with searchLd := 0#8 }) = some ([.done], 0) ∧
    look (fun t => (statuses t, searchState t)) (exec .search (answered (true :: false :: List.replicate 6 true))) =
      some (([.protocolDesync], 12), 0xFF#8, 0#64) := by decide

/-! ### Sensor commands -/

/-- V-P1, V-P3. -/
theorem test_startConversion :
    look counted (exec (.startConversion .broadcast) (onBus [z])) = some ([[0x00#8]], 18) ∧
    look counted (exec (.startConversion .broadcast) (onBus [])) = some ([[0x01#8]], 2) := by decide

/-- V-P4, V-P5: a converting device answers 0, no device leaves a 1. -/
theorem test_conversionInProgress :
    look seen (exec .conversionInProgress
      (on (.reference { busOf [{ z with active := true }] with phase := .converting 2 }))) =
      some ([[0x00#8, 0x01#8]], [.slot true false]) ∧
    look seen (exec .conversionInProgress (onBus [])) = some ([[0x00#8, 0x00#8]], [.slot true true]) := by decide

/-- 43_sensor_protocol.md R116 and 20_memory.md R41: a selected externally powered device that still converts holds the line
at 0 beside a parasite-powered one, and by its address its own answer counts alone. -/
theorem test_conversionInProgress_beside_parasite :
    look seen (exec .conversionInProgress
      (on (.reference { busOf [{ z with active := true }, { xParasite with active := true }] with phase := .converting 1 }))) =
      some ([[0x00#8, 0x01#8]], [.slot true false]) ∧
    look seen (exec .conversionInProgress
      (on (.reference { busOf [{ z with active := true }, xParasite] with phase := .converting 0 }))) =
      some ([[0x00#8, 0x00#8]], [.slot true true]) := by decide

/-- V-P8. -/
theorem test_parasitePowered_broadcast :
    look counted (exec (.parasitePowered .broadcast) (onBus [z, xParasite])) =
      some ([[0x00#8, 0x01#8]], 19) := by decide

/-- V-P6. -/
theorem test_parasitePowered_address :
    look counted (exec (.parasitePowered (.address zRom)) (onBus [z])) = some ([[0x00#8, 0x00#8]], 83) := by decide

/-- V-P10. -/
theorem test_readScratchpad :
    look counted (exec (.readScratchpad (.address zRom)) (onBus [z])) = some
      ([[0x00#8, 0x91#8, 0x01#8, 0x4B#8, 0x46#8, 0x7F#8, 0xFF#8, 0x0C#8, 0x10#8, 0x70#8]], 154) := by decide

/-- V-P11. -/
theorem test_readScratchpad_badCrc :
    look statuses (exec (.readScratchpad (.address zRom)) (onBus [{ z with sp := { zSp with crc := 0x71#8 } }])) =
      some ([.integrityError], 154) := by decide

/-- V-P14. -/
theorem test_writeScratchpad_programmable :
    look (fun t => (counted t, scratchpads t)) (exec (.writeScratchpad (.address zRom) 0x1E#8 0x0A#8 0x1F#8) (onBus [z, x])) =
      some (([[0x00#8]], 106),
        [⟨0x91#8, 0x01#8, 0x1E#8, 0x0A#8, 0x1F#8, 0xFF#8, 0x0C#8, 0x10#8, 0xED#8⟩, xSp]) := by decide

/-- V-P15. -/
theorem test_writeScratchpad_legacy :
    look (fun t => (counted t, scratchpads t)) (exec (.writeScratchpad (.address xRom) 0x1E#8 0x0A#8 0x1F#8) (onBus [z, x])) =
      some (([[0x00#8]], 98),
        [zSp, ⟨0x32#8, 0x00#8, 0x1E#8, 0x0A#8, 0xFF#8, 0xFF#8, 0x0C#8, 0x10#8, 0x66#8⟩]) := by decide

/-- V-P17. -/
theorem test_copyScratchpad :
    look (fun t => (counted t, t.history.getLast?)) (exec (.copyScratchpad (.address zRom)) (onBus [z])) =
      some (([[0x00#8]], 83), some (.delay .copySettle)) := by decide

/-- V-P18. -/
theorem test_copyScratchpad_emptyBus :
    look counted (exec (.copyScratchpad (.address zRom)) (onBus [])) = some ([[0x01#8]], 2) := by decide

/-- V-P19. -/
theorem test_recallEeprom :
    look (fun t => (counted t, t.history.drop 82)) (exec (.recallEeprom (.address zRom)) (onBus [z])) =
      some (([[0x00#8]], 85), [.slot true false, .delay .recallPoll, .slot true true]) := by decide

/-- V-P20. -/
theorem test_recallEeprom_times_out :
    look (fun t => (counted t, t.history.drop 82))
      (exec (.recallEeprom (.address zRom)) { onBus [z] with cfg := { cfg3 with recallMaxPolls := 1 } }) =
      some (([[0x04#8]], 83), [.slot true false]) := by decide

/-- 10_state.md R21: `has_more` and `parasite` "with `OK` only". -/
theorem test_flags_of_a_failed_operation :
    look (fun t => t.responses.map (fun r => refusalOf (readParasite r))) (exec (.parasitePowered .broadcast) (onBus [])) =
      some [some .flagNotReturned] ∧
    look (fun t => t.responses.map (fun r => refusalOf (readHasMore r))) (exec .search (onBus [])) =
      some [some .flagNotReturned] := by decide

/-! ### Temperature -/

/-- V-D1, V-D6: families B and C. -/
theorem test_decodeTemperature_programmable :
    look seen (exec (.decodeTemperature 0x28#8 zSp) (onBus [])) = some ([[0x00#8, 0x10#8, 0x19#8]], []) ∧
    look seen (exec (.decodeTemperature 0x28#8 ⟨0x5E#8, 0xFF#8, 0x4B#8, 0x46#8, 0x1F#8, 0xFF#8, 0x0C#8, 0x10#8, 0xFA#8⟩)
      (onBus [])) = some ([[0x00#8, 0x80#8, 0xF5#8]], []) := by decide

/-- V-D20, V-D21, V-D25: family A, and an unknown family. -/
theorem test_decodeTemperature_legacy :
    look seen (exec (.decodeTemperature 0x10#8 ⟨0x00#8, 0x00#8, 0x4B#8, 0x46#8, 0xFF#8, 0xFF#8, 0x10#8, 0x10#8, 0xB0#8⟩)
      (onBus [])) = some ([[0x00#8, 0xC0#8, 0xFF#8]], []) ∧
    look seen (exec (.decodeTemperature 0x10#8 ⟨0xFA#8, 0x00#8, 0x4B#8, 0x46#8, 0xFF#8, 0xFF#8, 0x00#8, 0xFF#8, 0x7F#8⟩)
      (onBus [])) = some ([[0x00#8, 0xB0#8, 0x8C#8]], []) ∧
    refusalOf (exec (.decodeTemperature 0x42#8 zSp) (onBus [])) = some .unknownFamily := by decide

/-- V-D27. -/
theorem test_readTemperature :
    look counted (exec (.readTemperature (.address zRom)) (onBus [{ z with sp :=
      ⟨0x5E#8, 0xFF#8, 0x4B#8, 0x46#8, 0x7F#8, 0xFF#8, 0x0C#8, 0x10#8, 0x6A#8⟩ }])) =
      some ([[0x00#8, 0xE0#8, 0xF5#8]], 154) := by decide

/-- V-D26, V-D28. -/
theorem test_readTemperature_fails :
    refusalOf (exec (.readTemperature .broadcast) (onBus [z])) = some .noFamily ∧
    look statuses (exec (.readTemperature (.address zRom)) (onBus [{ z with sp := { zSp with crc := 0x71#8 } }])) =
      some ([.integrityError], 154) := by decide

/-! ### Wire command bytes -/

/-- The bits that an instruction wrote in its slots. -/
def written (t : State) : List Bool :=
  t.history.filterMap fun e =>
    match e with
    | .slot w _ => some w
    | .precheck _ => none
    | .reset _ => none
    | .delay _ => none

/-- 30_encoding.md R71 and R60, bit 0 first: 0xF0, 0x55, 0xCC, 0x44, 0x4E. -/
theorem test_wire_commands_a :
    look written (exec .wSearch (onBus [])) = some [false, false, false, false, true, true, true, true] ∧
    look written (exec .wMatch (onBus [])) = some [true, false, true, false, true, false, true, false] ∧
    look written (exec .wSkip (onBus [])) = some [false, false, true, true, false, false, true, true] ∧
    look written (exec .wConvert (onBus [])) = some [false, false, true, false, false, false, true, false] ∧
    look written (exec .wWriteScratchpad (onBus [])) = some [false, true, true, true, false, false, true, false] := by
  decide

/-- 30_encoding.md R71 and R60, bit 0 first: 0xBE, 0x48, 0xB8, 0xB4. -/
theorem test_wire_commands_b :
    look written (exec .wReadScratchpad (onBus [])) = some [false, true, true, true, true, true, false, true] ∧
    look written (exec .wCopyScratchpad (onBus [])) = some [false, false, false, true, false, false, true, false] ∧
    look written (exec .wRecallEeprom (onBus [])) = some [false, false, false, true, true, true, false, true] ∧
    look written (exec .wReadPowerSupply (onBus [])) = some [false, false, true, false, true, true, false, true] := by
  decide

/-! ### Block reset -/

/-- V-E8. -/
theorem test_blockReset :
    look (fun t => (t.lineDrv, t.csHeld, searchState t, t.ie, t.history))
      (step { onBus [z] with inputs := [.blockReset], searchLd := 9#8, searchRom := zRom }) =
      some (false, false, (0xFF#8, 0#64), true, []) := by decide

/-! ### Witnesses

Each theorem shows a state and operands that meet all the hypotheses of the statement it is named after. `runs` says that
an instruction answers a next state. -/

def runs : Host.Outcome State Fault Refusal → Bool
  | .next _ => true
  | .fault _ => false
  | .refused _ => false

/-- The state after an instruction that answers a next state; the state itself where it does not. -/
def after (i : Instr) (s : State) : State :=
  match exec i s with
  | .next t => t
  | .fault _ => s
  | .refused _ => s

/-- A state inside a critical section. -/
def held (s : State) : State := { s with csHeld := true }

theorem witness_DecodeEncodeGivesBackEveryInstruction :
    Instr.fits (.crc8 (List.replicate 255 0x01#8)) = true ∧ Instr.fits (.readTemperature .broadcast) = true := by decide

theorem witness_DecodedWordsAreTheEncoding :
    decode (.request [0x02#8, 0xFF#8]) = .ok .readByte ∧ decode (.wire 0xF0#8) = .ok .wSearch := by decide

theorem witness_MalformedRequestsAreRefused :
    (asked (.request [])).inputs = [.frame (.request [])] ∧
    0x12 ≤ (0x12#8).toNat ∧
    (0x02#8 ≠ 0x00#8 ∧ 0x02#8 ≠ 0x01#8) ∧
    (0x11#8 ∈ [0x09#8, 0x0B#8, 0x0C#8, 0x0D#8, 0x0E#8, 0x0F#8, 0x11#8]) ∧
    ((0x11#8).toNat < 0x12 ∧ [0x11#8, 0x00#8, 0x00#8].length ≠ requestLength [0x11#8, 0x00#8, 0x00#8]) ∧
    ((0x05#8).toNat < 0x12 ∧ [0x05#8, 0xFF#8].length ≠ requestLength [0x05#8, 0xFF#8]) := by decide

theorem witness_BadOperandsAreRefused :
    ¬ (onBus [z]).cfg.Known 0x42#8 ∧ ¬ (onBus [z]).cfg.Known (Address.byte 0x42#64 0) := by decide

theorem witness_StepRunsTheDecodedInstruction :
    (asked (.request [0x08#8])).inputs = [.frame (.request [0x08#8])] ∧ decode (.request [0x08#8]) = .ok .search ∧
    decode (.request [0x12#8]) = .error .unassignedOp := by decide

theorem witness_StepWaitsAndResets :
    (onBus [z]).inputs = [] ∧ ({ onBus [z] with inputs := [.blockReset] } : State).inputs = .blockReset :: [] := by decide

theorem witness_StepKeepsTheInvariant :
    Inv (asked (.request [0x08#8])) ∧ runs (step (asked (.request [0x08#8]))) = true := by decide

theorem witness_WellFormedInstructionsComplete :
    Quiet (onBus [z]) ∧ Instr.wellFormed (onBus [z]).cfg (.readTemperature (.address zRom)) = true ∧
    Instr.wellFormed (onBus [z]).cfg (.crc8Check [0x00#8]) = true := by decide

theorem witness_OperationsRunToOneResponse :
    Quiet (onBus [z]) ∧ runs (exec .busReset (onBus [z])) = true ∧ runs (exec .wSkip (onBus [z])) = true := by decide

theorem witness_OnlySearchChangesTheSearchState :
    Quiet (onBus [z]) ∧ runs (exec .search (onBus [z])) = true ∧
    ¬ KeepsSearch (onBus [z]) (after .search (onBus [z])) :=
  ⟨by decide, by decide, fun h => absurd h.1 (by decide)⟩

theorem witness_StatusesOfEachOperation :
    Quiet onShort ∧ runs (exec .search onShort) = true ∧
    (after .search onShort).responses.map (fun r => r.status) = [.busFault] := by decide

theorem witness_ResponsesHaveTheirLength :
    Quiet onShort ∧ runs (exec (.readScratchpad .broadcast) onShort) = true ∧
    (after (.readScratchpad .broadcast) onShort).responses.length = 1 := by decide

theorem witness_CriticalSectionsDoNotNest :
    (held (onBus [z])).csHeld = true ∧ runs (exec .searchReset (held (onBus [z]))) = true ∧
    runs (exec .busReset (held onShort)) = true := by decide

theorem witness_SamplesObeyTheLine :
    (lineDriveLow (onBus [z])).lineDrv = true ∧ (onBus [z]).lineDrv = false ∧
    Environment.answerTo (onBus [z]).env .presence = some false := by decide

theorem witness_BusResetReportsPresence : Quiet (onBus [z]) := by decide

theorem witness_WriteBitIsOneSlot :
    Quiet (onBus [z]) ∧ (Instr.writeBit false = .writeBit false ∨ (false = true ∧ Instr.writeBit false = .readBit)) ∧
    (Instr.readBit = .writeBit true ∨ (true = true ∧ Instr.readBit = .readBit)) := by decide

theorem witness_WriteByteIsEightSlots :
    Quiet (onBus [z]) ∧
    (Instr.readByte = .writeByte 0xFF#8 ∨ (0xFF#8 = 0xFF#8 ∧ Instr.readByte = .readByte)) := by decide

theorem witness_AddressedCommandSendsItsByte : Quiet (onBus [z]) := by decide

theorem witness_WireCommandBytesAreSent :
    Quiet (onBus [z]) ∧ (Instr.wReadPowerSupply, 0xB4#8) ∈
      [(Instr.wSearch, 0xF0#8), (.wMatch, 0x55#8), (.wSkip, 0xCC#8), (.wConvert, 0x44#8), (.wWriteScratchpad, 0x4E#8),
        (.wReadScratchpad, 0xBE#8), (.wCopyScratchpad, 0x48#8), (.wRecallEeprom, 0xB8#8),
        (.wReadPowerSupply, 0xB4#8)] := by decide

theorem witness_Crc8OfASequenceWithItsCrcIsZero :
    runs (exec (.crc8 [0x01#8]) (onBus [])) = true ∧
    (after (.crc8 [0x01#8]) (onBus [])).responses = (onBus []).responses ++ [⟨.ok, .crc 0x5E#8⟩] := by decide

theorem witness_Crc8UpdateTellsBytesApart :
    exec (.crc8Update 0x00#8 0x01#8) (onBus []) = exec (.crc8Update 0x00#8 0x01#8) (onBus []) := rfl

theorem witness_SingleByteCorruptionIsDetected :
    0x5E#8 ≠ 0x5F#8 ∧ runs (exec (.crc8Check ([0x01#8] ++ 0x5E#8 :: [])) (onBus [])) = true ∧
    (after (.crc8Check ([0x01#8] ++ 0x5E#8 :: [])) (onBus [])).responses = (onBus []).responses ++ [⟨.ok, .none⟩] := by
  decide

theorem witness_AllZeroSequencesPass :
    Quiet (answered (true :: false :: List.replicate 152 false)) ∧ 152 ≤ 152 ∧
    (answered (true :: false :: List.replicate 152 false)).env = .answers (true :: false :: List.replicate 152 false) := by
  decide

theorem witness_SearchWhenDoneTouchesNothing : ({ onBus [z] with searchLd := 0#8 } : State).searchLd = 0x00#8 := by decide

theorem witness_SearchWalksTheTree : Quiet (onBus [z]) ∧ (onBus [z]).searchLd ≠ 0x00#8 := by decide

theorem witness_FailedSearchKeepsTheSearchState :
    Quiet onShort ∧ runs (exec .search onShort) = true ∧
    (after .search onShort).responses.map (fun r => r.status) = [.busFault] ∧ Status.busFault ≠ .ok := by decide

theorem witness_HasMoreTellsWhetherTheNextSearchIsDone :
    Quiet (onBus [z]) ∧ Quiet (onBus [z, x]) ∧ runs (exec .search (onBus [z])) = true ∧
    (after .search (onBus [z])).responses = (onBus [z]).responses ++ [⟨.ok, .found zRom false⟩] ∧
    (after .search (onBus [z, x])).responses = (onBus [z, x]).responses ++ [⟨.ok, .found xRom true⟩] := by decide

theorem witness_EnumerationVisitsEveryDeviceOnce :
    Quiet (onBus [z, x]) ∧ (onBus [z, x]).env = .reference (busOf [z, x]) ∧ (busOf [z, x]).short = false ∧
    [xRom, zRom] ≠ [] ∧ [xRom, zRom].Perm ((busOf [z, x]).devices.map Device.rom) ∧
    [xRom, zRom].Pairwise WireBefore := by
  refine ⟨by decide, by decide, by decide, by decide, by decide, ?_⟩
  simp only [List.pairwise_cons, List.mem_singleton, forall_eq, List.not_mem_nil, false_implies, implies_true,
    List.Pairwise.nil, and_true]
  exact ⟨3, by decide, by decide, by decide, by decide⟩

theorem witness_SingleDeviceAndEmptyBus :
    Quiet (onBus [z]) ∧ Quiet (onBus []) ∧ (onBus [z]).env = .reference (busOf [z]) ∧
    (onBus []).env = .reference (busOf []) ∧ (busOf [z]).short = false ∧ (onBus [z]).searchLd = 0xFF#8 ∧
    (busOf [z]).devices = [z] ∧ (busOf []).devices = [] := by decide

theorem witness_StartConversionSendsConvert : Quiet (onBus [z]) := by decide

theorem witness_ConversionInProgressReadsOneBit : Quiet (onBus [z]) := by decide

theorem witness_ParasitePoweredReadsOneBit : Quiet (onBus [z]) := by decide

theorem witness_ReadScratchpadChecksItsCrc : Quiet (onBus [z]) := by decide

theorem witness_WriteScratchpadSendsItsBytes :
    Quiet (onBus [z]) ∧ (onBus [z]).cfg.Prog (Address.byte zRom 0) ∧ ¬ (onBus [z]).cfg.Prog (Address.byte xRom 0) := by
  decide

theorem witness_CopyScratchpadWaitsItsDelay : Quiet (onBus [z]) := by decide

theorem witness_RecallEepromPollsWithinItsBound : Quiet (onBus [z]) ∧ (onBus [z]).cfg.Ok := by decide

theorem witness_DeadBusGivesBusFault :
    Quiet onShort ∧ onShort.env = .reference ⟨true, [z], .unspecified, 2, 1⟩ ∧
    Quiet (onBus []) ∧ (onBus []).env = .reference (busOf []) ∧ (busOf []).devices = [] ∧
    Instr.opensWithReset .search = true ∧ Instr.wellFormed onShort.cfg .search = true ∧ onShort.searchLd ≠ 0x00#8 := by
  decide

theorem witness_LiveBusCarriesTheOperation :
    Quiet (onBus [z]) ∧ BusAlive (onBus [z]) ∧ BusAlive (answered [true, false]) ∧ Quiet (answered [true, false]) ∧
    Instr.opensWithReset .busReset = true ∧ Instr.failsOnlyAtReset .busReset = true ∧
    Instr.wellFormed (onBus [z]).cfg .busReset = true ∧ (onBus [z]).searchLd ≠ 0x00#8 := by decide

theorem witness_RecallOfADeviceEndsByItsBusyTime :
    Quiet (onBus [z]) ∧ (onBus [z]).env = .reference (busOf [z]) ∧ (busOf [z]).short = false ∧ z ∈ (busOf [z]).devices := by
  decide

theorem witness_ConversionPollsAreBusyThenDone :
    Quiet (onBus [z]) ∧ (onBus [z]).env = .reference (busOf [z]) ∧ (busOf [z]).short = false ∧
    (∃ d ∈ (busOf [z]).devices, d.parasite = false) ∧ (∀ d ∈ (busOf [z]).devices, d.parasite = false) ∧
    (∃ d ∈ (busOf [z, xParasite]).devices, d.parasite = false) := by decide

theorem witness_ConversionOfOneDeviceIgnoresTheOthers :
    Quiet (onBus [z, xParasite]) ∧ (onBus [z, xParasite]).env = .reference (busOf [z, xParasite]) ∧
    (busOf [z, xParasite]).short = false ∧ z ∈ (busOf [z, xParasite]).devices ∧
    ((busOf [z, xParasite]).devices.map Device.rom).Nodup ∧ z.parasite = false := by decide

theorem witness_ParasiteFlagIsOfTheSelectedDevices :
    Quiet (onBus [z, x]) ∧ (onBus [z, x]).env = .reference (busOf [z, x]) ∧ (busOf [z, x]).short = false ∧
    (busOf [z, x]).devices ≠ [] ∧ x ∈ (busOf [z, x]).devices ∧ ((busOf [z, x]).devices.map Device.rom).Nodup := by decide

theorem witness_AddressedReadReturnsThatDevice :
    Quiet (onBus [z, x]) ∧ (onBus [z, x]).env = .reference (busOf [z, x]) ∧ (busOf [z, x]).short = false ∧
    z ∈ (busOf [z, x]).devices ∧ ((busOf [z, x]).devices.map Device.rom).Nodup ∧
    Sys2Proof.Machine.crc8 (scratchpadBody z.sp) = z.sp.crc ∧
    variantOf (onBus [z, x]).cfg (Address.byte z.rom 0) = some .prog := by decide

theorem witness_AddressedWriteReachesOnlyThatDevice :
    Quiet (onBus [z, x]) ∧ (onBus [z, x]).env = .reference (busOf [z, x]) ∧ (busOf [z, x]).short = false ∧
    z ∈ (busOf [z, x]).devices ∧ x ∈ (busOf [z, x]).devices ∧ ((busOf [z, x]).devices.map Device.rom).Nodup ∧
    (onBus [z, x]).cfg.Prog (Address.byte z.rom 0) ∧ ¬ (onBus [z, x]).cfg.Prog (Address.byte x.rom 0) := by decide

theorem witness_BroadcastReadIsTheWiredAnd :
    Quiet (onBus [z, x]) ∧ (onBus [z, x]).env = .reference (busOf [z, x]) ∧ (busOf [z, x]).short = false ∧
    (busOf [z, x]).devices ≠ [] := by decide

theorem witness_ProgrammableDecodeFormula :
    (onBus []).cfg.Ok ∧ (onBus []).cfg.Prog 0x28#8 ∧ (onBus []).cfg.Prog 0x22#8 := by decide

/-- V-D8, near the lower end of the range, and V-D7, near the upper end. -/
theorem witness_FixedPointIsExactInRange :
    -2048 ≤ (familyRaw .prog ⟨0x90#8, 0xFC#8, 0x4B#8, 0x46#8, 0x7F#8, 0xFF#8, 0x0C#8, 0x10#8, 0x4F#8⟩).toInt ∧
    (familyRaw .prog ⟨0xD0#8, 0x07#8, 0x4B#8, 0x46#8, 0x7F#8, 0xFF#8, 0x0C#8, 0x10#8, 0xF4#8⟩).toInt ≤ 2047 ∧
    (familyRaw .prog ⟨0x00#8, 0xF8#8, 0, 0, 0x7F#8, 0, 0, 0, 0⟩).toInt = -2048 ∧
    (familyRaw .prog ⟨0xFF#8, 0x07#8, 0, 0, 0x7F#8, 0, 0, 0, 0⟩).toInt = 2047 := by decide

theorem witness_ReadTemperatureIsReadThenDecode :
    Quiet (onBus [z]) ∧ (onBus [z]).cfg.Known (Address.byte zRom 0) := by decide

/-- Each form that a reader refuses: another result, and its own result with another status. -/
theorem witness_FlagsAreReadOnlyWhereReturned :
    (∀ addr b, (⟨.ok, .busy true⟩ : Response) ≠ ⟨.ok, .found addr b⟩) ∧
    (∀ addr b, (⟨.busFault, .found 0 true⟩ : Response) ≠ ⟨.ok, .found addr b⟩) ∧
    (∀ b, (⟨.ok, .none⟩ : Response) ≠ ⟨.ok, .busy b⟩) ∧
    (∀ b, (⟨.busFault, .parasite true⟩ : Response) ≠ ⟨.ok, .parasite b⟩) :=
  ⟨nofun, nofun, nofun, nofun⟩

theorem witness_TimingParametersDoNotShow :
    SameButTiming (onBus [z]).cfg { cfg3 with tCopySettle := 0, tRecallPoll := 99 } ∧
    runs (exec (.copyScratchpad .broadcast) (onBus [z])) = true ∧
    refusalOf (exec (.readTemperature .broadcast) (onBus [z])) = some .noFamily := by decide

end Sys2Proof.Tests
end

section
/-! SUPPORT. The state between two operations (10_state.md): what a completed instruction leaves behind, said once for all
29 instructions as `Completed`, and the statements about the state that follow from it. -/

namespace Sys2Proof.Machine

/-! ### One step -/

/-- Words that decode are run as their instruction, once they are taken from the queue (10_state.md R12). -/
theorem step_eq_exec {s : State} {f : Frame} {rest : List Input} {i : Instr} (hs : s.inputs = .frame f :: rest)
    (hd : decode f = .ok i) : step s = exec i (takeInput s) := by
  simp only [step, hs, hd]

/-- Words that do not decode are refused (10_state.md R18). -/
theorem step_eq_refused {s : State} {f : Frame} {rest : List Input} {why : Reject} (hs : s.inputs = .frame f :: rest)
    (hd : decode f = .error why) : step s = .refused (.malformed why) := by
  simp only [step, hs, hd]

/-- The three courses of a step that answers a next state: it waits, it resets the block, or it runs an instruction. -/
theorem step_cases {s t : State} (h : step s = .next t) :
    t = s ∨ t = blockReset (takeInput s) ∨ ∃ i, exec i (takeInput s) = .next t := by
  rcases hs : s.inputs with _ | ⟨f | _, rest⟩
  · exact .inl (by simpa [step, hs] using h.symm)
  · cases hd : decode f with
    | error why => rw [step_eq_refused hs hd] at h; cases h
    | ok i => exact .inr (.inr ⟨i, step_eq_exec hs hd ▸ h⟩)
  · exact .inr (.inl (by simpa [step, hs] using h.symm))

/-- Settles O7: the step's two courses on a frame, with the queue's tail named. -/
theorem stepRunsTheDecodedInstruction : Obligations.StepRunsTheDecodedInstruction := by
  intro s f rest hs
  refine ⟨fun i hd => ?_, fun why hd => step_eq_refused hs hd⟩
  rw [step_eq_exec hs hd, takeInput, hs, List.tail_cons]

/-! ### The host's readers of flags -/

/-- Each reader: the response is the one form that carries the flag, or the reader is refused (10_state.md R21, R23). -/
theorem readHasMore_cases (r : Response) :
    (∃ addr b, r = ⟨.ok, .found addr b⟩) ∨ readHasMore r = .refused .flagNotReturned := by
  obtain ⟨status, result⟩ := r
  simp only [readHasMore]
  split
  · exact .inl ⟨_, _, rfl⟩
  · exact .inr rfl

theorem readBusy_cases (r : Response) :
    (∃ b, r = ⟨.ok, .busy b⟩) ∨ readBusy r = .refused .flagNotReturned := by
  obtain ⟨status, result⟩ := r
  simp only [readBusy]
  split
  · exact .inl ⟨_, rfl⟩
  · exact .inr rfl

theorem readParasite_cases (r : Response) :
    (∃ b, r = ⟨.ok, .parasite b⟩) ∨ readParasite r = .refused .flagNotReturned := by
  obtain ⟨status, result⟩ := r
  simp only [readParasite]
  split
  · exact .inl ⟨_, rfl⟩
  · exact .inr rfl

/-- Settles O57: each reader answers on the one form of response that carries its flag and is refused on every other. -/
theorem flagsAreReadOnlyWhereReturned : Obligations.FlagsAreReadOnlyWhereReturned := by
  refine ⟨fun _ _ => rfl, fun _ => rfl, fun _ => rfl, fun r => ⟨fun h => ?_, fun h => ?_, fun h => ?_⟩⟩
  · exact (readHasMore_cases r).resolve_left fun ⟨addr, b, hr⟩ => h addr b hr
  · exact (readBusy_cases r).resolve_left fun ⟨b, hr⟩ => h b hr
  · exact (readParasite_cases r).resolve_left fun ⟨b, hr⟩ => h b hr

/-! ### The search state -/

/-- A search takes the 0 branch at every discrepancy it records: the deepest zero of a walk is the value it
started from or a visited position that got the bit 0 (42_device_search_engine.md R109). -/
theorem deepestZero_cases (vs : List Visit) (lz p : Nat) :
    deepestZero lz p vs = lz ∨
      ∃ k, ∃ h : k < vs.length, deepestZero lz p vs = p + k ∧ (vs[k]'h).d = false := by
  induction vs generalizing lz p with
  | nil => exact .inl rfl
  | cons v vs ih =>
    rcases ih (if v.a = false ∧ v.b = false ∧ v.d = false then p else lz) (p + 1) with h | ⟨k, hk, h, hd⟩
    · by_cases hz : v.a = false ∧ v.b = false ∧ v.d = false
      · exact .inr ⟨0, Nat.succ_pos _, by rw [deepestZero, h, if_pos hz, Nat.add_zero], hz.2.2⟩
      · exact .inl (by rw [deepestZero, h, if_neg hz])
    · exact .inr ⟨k + 1, Nat.succ_lt_succ hk, by rw [deepestZero, h]; omega, hd⟩

/-- The state with another search state: what `SEARCH_RESET` and a complete walk leave (42_device_search_engine.md R107,
R109 step 4). -/
abbrev withSearch (ld : Byte) (rom : Address) (s : State) : State := { s with searchLd := ld, searchRom := rom }

/-- A complete walk from position 1 leaves a legal search state, and the position it records holds a 0 of the address it
found. -/
theorem walk_searchState (vs : List Visit) (hl : vs.length = 64) (s : State) :
    let t := withSearch (BitVec.ofNat 8 (deepestZero 0 1 vs)) (addressAfter 0#64 1 vs) s
    SearchLegal t ∧ SearchSound t := by
  rcases deepestZero_cases vs 0 1 with h | ⟨k, hk, h, hd⟩ <;> rw [h]
  · exact ⟨.inl (by simp), by simp, by simp⟩
  · have hn : (BitVec.ofNat 8 (1 + k)).toNat = 1 + k := by simp; omega
    refine ⟨.inl (by simp only [hn]; omega), fun hf => ?_, fun _ _ => ?_⟩
    · have := congrArg BitVec.toNat hf
      simp only [hn, BitVec.toNat_ofNat] at this
      omega
    · simp only [hn, addressBit]
      rw [addressAfter_getLsbD _ _ _ (le_refl 1) _ (by omega)]
      simpa [hk] using hd

/-- A state with the search state of `s` has a legal and sound search state if `s` has. -/
theorem KeepsSearch.legal {s t : State} (hk : KeepsSearch s t) (h : SearchLegal s) : SearchLegal t := by
  rwa [SearchLegal, hk.1]

theorem KeepsSearch.sound {s t : State} (hk : KeepsSearch s t) (h : SearchSound s) : SearchSound t := by
  rwa [SearchSound, hk.1, hk.2]

/-- The frame does not speak of the search state. -/
theorem Ran.withSearch {s t : State} {evs : List Event} {rs : List Response} (h : Ran s t evs rs) (ld : Byte)
    (rom : Address) : Ran s (withSearch ld rom t) evs rs :=
  ⟨h.history, h.responses, h.lineDrv, h.csHeld, h.ie, h.csSaved, h.inputs, h.cfg, h.env, h.allowed⟩

/-! ### Operations that answer once and keep the search state -/

/-- From `s` to `t` the machine performed some events and gave one response, of which `P` holds, and the search state is
unchanged. -/
def Answered (P : Response → Prop) (s t : State) : Prop :=
  KeepsSearch s t ∧ ∃ evs r, Ran s t evs [r] ∧ P r

section
variable {P : Response → Prop} {s t u : State}

theorem answered_respond (h : Quiet s) {st : Status} {r : Result} (hp : P ⟨st, r⟩) : Answered P s (respond st r s) :=
  ⟨respond_keepsSearch _ _ _, _, _, respond_ran h st r, hp⟩

theorem answered_fail (h : Quiet s) {st : Status} {k : ResultKind} (hp : ∀ n, P ⟨st, freeResult n k⟩) :
    Answered P s (fail st k s) :=
  ⟨fail_keepsSearch _ _ _, _, _, fail_ran h st k, hp _⟩

/-- An answer after events that gave no response. -/
theorem Answered.after {evs : List Event} (ha : Answered P u t) (hr : Ran s u evs []) (hk : KeepsSearch s u) :
    Answered P s t := by
  obtain ⟨hk', evs', r, hr', hp⟩ := ha
  exact ⟨hk.trans hk', _, r, hr.trans hr', hp⟩

/-- An addressed operation fails at its reset, or answers as what it does after its command byte. -/
theorem answered_addressed (h : Quiet s) (tg : Target) (command : Byte) {k : ResultKind} {next : State → State}
    (hfail : ∀ n, P ⟨.busFault, freeResult n k⟩) (hnext : ∀ u, Quiet u → Answered P u (next u)) :
    Answered P s (addressed tg command k next s) := by
  obtain ⟨hk, ⟨evs, rs, _, hr, r, rfl, hp⟩ | ⟨_, _, rs, _, hr, r, rfl, hp⟩⟩ :=
    addressed_ran (failed := fun rs => ∃ r, rs = [r] ∧ P r) (done := fun _ rs => ∃ r, rs = [r] ∧ P r) h tg command k next
      (fun n => ⟨_, rfl, hfail n⟩)
      (fun u hu _ => have ⟨hk, evs, r, hr, hp⟩ := hnext u hu; ⟨hk, evs, [r], hr, r, rfl, hp⟩)
  · exact ⟨hk, evs, r, hr, hp⟩
  · exact ⟨hk, _, r, hr, hp⟩

/-- One slot and then an answer (40_bus_transport.md R88). -/
theorem answered_slot (w : Bool) {st : Status} {r : Result} (hp : P ⟨st, r⟩) :
    Answered P s (respond st r (slot w s).1) :=
  (answered_respond (slot_ran w s).quiet hp).after (slot_ran w s) (slot_keepsSearch w s)

/-- The nine read bytes end with the answer of the caller or with the failed CRC (43_sensor_protocol.md R118). -/
theorem answered_readNine (h : Quiet s) {k : ResultKind} {ok : Scratchpad → Result} (hok : ∀ sp, P ⟨.ok, ok sp⟩)
    (hfail : ∀ n, P ⟨.integrityError, freeResult n k⟩) : Answered P s (readNine k ok s) := by
  have hr := receiveBytes_ran h 9
  have hk := receiveBytes_keepsSearch 9 s
  simp only [readNine]
  split
  · exact (answered_respond hr.quiet (hok _)).after hr hk
  · exact (answered_fail hr.quiet hfail).after hr hk

/-- The poll loop ends with completion or with the bound (43_sensor_protocol.md R121). -/
theorem answered_recallPoll (h : Quiet s) (n : Nat) (hok : P ⟨.ok, .none⟩) (hfail : P ⟨.timeout, .none⟩) :
    Answered P s (recallPoll n s) := by
  induction n generalizing s with
  | zero => exact answered_fail h fun _ => hfail
  | succ n ih =>
    have hr := slot_ran true s
    have hk := slot_keepsSearch true s
    simp only [recallPoll]
    split
    · exact answered_slot true hok
    · refine Answered.after ?_ hr hk
      split
      · exact ih hr.quiet
      · have hd := namedDelay_ran hr.quiet .recallPoll
        exact (ih hd.quiet).after hd (namedDelay_keepsSearch _ _)

end

/-! ### What every completed instruction leaves behind -/

/-- A response that the operation may return: its result bytes are as many as 30_encoding.md R69 gives it, and its status
is one that 60_exceptions.md R131 lists for it. -/
def Instr.Returns (i : Instr) (r : Response) : Prop :=
  (Result.bytes r.result).length = Instr.resultBytes i ∧ Instr.mayReturn i r.status = true

/-- The three ways in which an instruction completes: a wire command byte is sent, with no response; an operation answers
and keeps the search state; or it answers `OK` and leaves a new search state, legal and sound (10_state.md R15 to R17). -/
inductive Completed (i : Instr) (s t : State) : Prop
  | sent (hw : Instr.isWire i = true) {evs : List Event} (hk : KeepsSearch s t) (hr : Ran s t evs [])
  | answered (hw : Instr.isWire i = false) (ha : Answered (Instr.Returns i) s t)
  | searched (hi : i = .searchReset ∨ i = .search) {evs : List Event} {result : Result}
      (hr : Ran s t evs [⟨.ok, result⟩]) (hp : Instr.Returns i ⟨.ok, result⟩) (hl : SearchLegal t) (hs : SearchSound t)

/-- An instruction that completes after events that gave no response. -/
theorem Completed.after {i : Instr} {s u t : State} {evs : List Event} (hc : Completed i u t) (hr : Ran s u evs [])
    (hk : KeepsSearch s u) : Completed i s t := by
  cases hc with
  | sent hw hk' hr' => exact .sent hw (hk.trans hk') (hr.trans hr')
  | answered hw ha => exact .answered hw (ha.after hr hk)
  | searched hi hr' hp hl hs => exact .searched hi (hr.trans hr') hp hl hs

/-- An operation that begins with a reset fails with it, or completes as what it does next (60_exceptions.md R131). -/
theorem resetPulse_completed {i : Instr} (hw : Instr.isWire i = false) {s : State} (h : Quiet s) {k : ResultKind}
    (next : State → State) (hfail : ∀ n, Instr.Returns i ⟨.busFault, freeResult n k⟩)
    (hnext : ∀ u, Quiet u → Completed i u (next u)) :
    Completed i s (if (resetPulse s).2 then next (resetPulse s).1 else fail .busFault k (resetPulse s).1) := by
  obtain ⟨hk, ⟨hf, evs, _, hr⟩ | ⟨ht, hr⟩⟩ := resetPulse_cases h
  · simp only [hf, Bool.false_eq_true, if_false]
    exact .answered hw ((answered_fail hr.quiet hfail).after hr hk)
  · simp only [ht, if_true]
    exact (hnext _ hr.quiet).after hr hk

/-- An operation that passes its guard is in the state computed for it (60_exceptions.md R141). -/
theorem guardWindow_next {b : Bool} {s u t : State} (h : guardWindow b s u = .next t) : u = t := by
  unfold guardWindow at h
  split at h
  · cases h
  · exact Host.Outcome.next.inj h

/-- A wire command byte is one byte transfer with no response (30_encoding.md R71). -/
theorem wireCommand_completed {i : Instr} (hw : Instr.isWire i = true) {byte : Byte} {s t : State} (h : Quiet s)
    (he : wireCommand byte s = .next t) : Completed i s t := by
  obtain rfl := guardWindow_next he
  exact .sent hw (xferByte_keepsSearch byte s) (xferByte_ran h byte)

/-- `SEARCH` after its reset: a walk that meets the (1,1) pair fails and keeps the search state; a complete walk answers
`OK` with the new one (42_device_search_engine.md R109, R110). -/
theorem searchRound_completed {s : State} (h : Quiet s) : Completed .search s (searchRound s) := by
  have hx := xferByte_ran h 0xF0#8
  have hkx := xferByte_keepsSearch 0xF0#8 s
  obtain ⟨hk, ⟨hn, vs, _, _, hr⟩ | ⟨vs, hl, _, hs, hr⟩⟩ :=
    searchWalk_cases 64 hx.quiet 1 (comparisonValue s.searchLd) s.searchRom 0 0#64
  · simp only [searchRound, hn]
    exact .answered rfl (((answered_fail hr.quiet fun _ => ⟨rfl, rfl⟩).after hr hk).after hx hkx)
  · have hw := (hx.trans hr).withSearch (BitVec.ofNat 8 (deepestZero 0 1 vs)) (addressAfter 0#64 1 vs)
    obtain ⟨hlegal, hsound⟩ := walk_searchState vs hl
      (searchWalk 64 1 (comparisonValue s.searchLd) s.searchRom 0 0#64 (xferByte 0xF0#8 s).1).1
    simp only [searchRound, hs]
    exact .searched (.inr rfl) (hw.trans (respond_ran hw.quiet _ _)) ⟨rfl, rfl⟩ hlegal hsound

theorem execSearch_completed {s t : State} (h : Quiet s) (he : execSearch s = .next t) : Completed .search s t := by
  unfold execSearch at he
  split at he
  · cases he
    exact .answered rfl (answered_fail h fun _ => ⟨rfl, rfl⟩)
  · obtain rfl := guardWindow_next he
    exact resetPulse_completed rfl h searchRound (fun _ => ⟨rfl, rfl⟩) fun _ hu => searchRound_completed hu

theorem execSearchReset_completed {s t : State} (h : Quiet s) (he : execSearchReset s = .next t) :
    Completed .searchReset s t := by
  cases he
  have hr := (Ran.refl h).withSearch 0xFF#8 0#64
  exact .searched (.inl rfl) (hr.trans (respond_ran hr.quiet _ _)) ⟨rfl, rfl⟩ (.inr rfl) ⟨fun _ => rfl, by simp⟩

theorem execCrc8Check_completed {bytes : List Byte} {s t : State} (h : Quiet s) (he : execCrc8Check bytes s = .next t) :
    Completed (.crc8Check bytes) s t := by
  cases bytes with
  | nil => cases he
  | cons b bs =>
    obtain rfl := Host.Outcome.next.inj he
    refine .answered rfl ?_
    split
    · exact answered_respond h ⟨rfl, rfl⟩
    · exact answered_fail h fun _ => ⟨rfl, rfl⟩

theorem execDecodeTemperature_completed {fam : Byte} {sp : Scratchpad} {s t : State} (h : Quiet s)
    (he : execDecodeTemperature fam sp s = .next t) : Completed (.decodeTemperature fam sp) s t := by
  unfold execDecodeTemperature at he
  split at he
  · cases he
  · cases he
    exact .answered rfl (answered_respond h ⟨rfl, rfl⟩)

theorem execReadTemperature_completed {tg : Target} {s t : State} (h : Quiet s)
    (he : execReadTemperature tg s = .next t) : Completed (.readTemperature tg) s t := by
  unfold execReadTemperature at he
  split at he
  · cases he
  · split at he
    · cases he
    · obtain rfl := guardWindow_next he
      exact .answered rfl (answered_addressed h _ _ (fun _ => ⟨rfl, rfl⟩)
        fun u hu => answered_readNine hu (fun _ => ⟨rfl, rfl⟩) fun _ => ⟨rfl, rfl⟩)

/-- One slot and its sample, for both instructions that are this transfer (40_bus_transport.md R88, 30_encoding.md R76). -/
theorem bitTransfer_completed {i : Instr} (hw : Instr.isWire i = false) (hi : Instr.resultBytes i = 1) {b : Bool}
    {s t : State} (he : bitTransfer b s = .next t) : Completed i s t := by
  obtain rfl := guardWindow_next he
  exact .answered hw (answered_slot b ⟨hi.symm, rfl⟩)

/-- One byte and what was read back, for both instructions that are this transfer (40_bus_transport.md R91). -/
theorem byteTransfer_completed {i : Instr} (hw : Instr.isWire i = false) (hi : Instr.resultBytes i = 1) {v : Byte}
    {s t : State} (h : Quiet s) (he : byteTransfer v s = .next t) : Completed i s t := by
  obtain rfl := guardWindow_next he
  have hx := xferByte_ran h v
  exact .answered hw ((answered_respond hx.quiet ⟨hi.symm, rfl⟩).after hx (xferByte_keepsSearch v s))

/-- An addressed operation completes by what it answers after its command byte, or with its failed reset. -/
theorem addressed_completed {i : Instr} (hw : Instr.isWire i = false) {tg : Target} {command : Byte} {k : ResultKind}
    {next : State → State} {s t : State} (h : Quiet s)
    (he : guardWindow (resetReaches s) s (addressed tg command k next s) = .next t)
    (hfail : ∀ n, Instr.Returns i ⟨.busFault, freeResult n k⟩)
    (hnext : ∀ u, Quiet u → Answered (Instr.Returns i) u (next u)) : Completed i s t := by
  obtain rfl := guardWindow_next he
  exact .answered hw (answered_addressed h tg command hfail hnext)

/-- Every instruction that completes from a quiet state completes in one of the three ways. -/
theorem exec_completed {i : Instr} {s t : State} (h : Quiet s) (he : exec i s = .next t) : Completed i s t := by
  cases i with
  | busReset =>
    obtain rfl := guardWindow_next he
    exact resetPulse_completed rfl h (respond .ok .none) (fun _ => ⟨rfl, rfl⟩)
      fun u hu => .answered rfl (answered_respond hu ⟨rfl, rfl⟩)
  | writeBit b => exact bitTransfer_completed rfl rfl he
  | readBit => exact bitTransfer_completed rfl rfl he
  | writeByte v => exact byteTransfer_completed rfl rfl h he
  | readByte => exact byteTransfer_completed rfl rfl h he
  | crc8Update c v => cases he; exact .answered rfl (answered_respond h ⟨rfl, rfl⟩)
  | crc8 bytes => cases he; exact .answered rfl (answered_respond h ⟨rfl, rfl⟩)
  | crc8Check bytes => exact execCrc8Check_completed h he
  | searchReset => exact execSearchReset_completed h he
  | search => exact execSearch_completed h he
  | conversionInProgress =>
    obtain rfl := guardWindow_next he
    exact .answered rfl (answered_slot true ⟨rfl, rfl⟩)
  | addressedCommand cmd tg =>
    exact addressed_completed rfl h he (fun _ => ⟨rfl, rfl⟩) fun u hu => answered_respond hu ⟨rfl, rfl⟩
  | startConversion tg =>
    exact addressed_completed rfl h he (fun _ => ⟨rfl, rfl⟩) fun u hu => answered_respond hu ⟨rfl, rfl⟩
  | parasitePowered tg =>
    exact addressed_completed rfl h he (fun _ => ⟨rfl, rfl⟩) fun u _ => answered_slot true ⟨rfl, rfl⟩
  | readScratchpad tg =>
    exact addressed_completed rfl h he (fun _ => ⟨rfl, rfl⟩)
      fun u hu => answered_readNine hu (fun _ => ⟨rfl, rfl⟩) fun _ => ⟨rfl, rfl⟩
  | writeScratchpad tg th tl cfg =>
    refine addressed_completed rfl h he (fun _ => ⟨rfl, rfl⟩) fun u hu => ?_
    obtain ⟨got, _, hr⟩ := sendBytes_ran hu (scratchpadPayload s.cfg tg th tl cfg)
    exact (answered_respond hr.quiet ⟨rfl, rfl⟩).after hr (sendBytes_keepsSearch _ u)
  | copyScratchpad tg =>
    refine addressed_completed rfl h he (fun _ => ⟨rfl, rfl⟩) fun u hu => ?_
    have hr := namedDelay_ran hu .copySettle
    exact (answered_respond hr.quiet ⟨rfl, rfl⟩).after hr (namedDelay_keepsSearch u _)
  | recallEeprom tg =>
    exact addressed_completed rfl h he (fun _ => ⟨rfl, rfl⟩) fun u hu => answered_recallPoll hu _ ⟨rfl, rfl⟩ ⟨rfl, rfl⟩
  | decodeTemperature fam sp => exact execDecodeTemperature_completed h he
  | readTemperature tg => exact execReadTemperature_completed h he
  | wSearch => exact wireCommand_completed rfl h he
  | wMatch => exact wireCommand_completed rfl h he
  | wSkip => exact wireCommand_completed rfl h he
  | wConvert => exact wireCommand_completed rfl h he
  | wWriteScratchpad => exact wireCommand_completed rfl h he
  | wReadScratchpad => exact wireCommand_completed rfl h he
  | wCopyScratchpad => exact wireCommand_completed rfl h he
  | wRecallEeprom => exact wireCommand_completed rfl h he
  | wReadPowerSupply => exact wireCommand_completed rfl h he

/-! ### The invariant -/

/-- However it completes, an instruction ran some events and gave one response, a wire command byte none. -/
theorem Completed.ran {i : Instr} {s t : State} (hc : Completed i s t) :
    ∃ evs rs, Ran s t evs rs ∧ rs.length = if Instr.isWire i then 0 else 1 := by
  cases hc with
  | sent hw _ hr => exact ⟨_, _, hr, by simp [hw]⟩
  | answered hw ha => obtain ⟨_, evs, r, hr, _⟩ := ha; exact ⟨evs, [r], hr, by simp [hw]⟩
  | searched hi hr _ _ _ => exact ⟨_, _, hr, by rcases hi with rfl | rfl <;> rfl⟩

/-- A completed instruction kept the search state, or set a legal and sound one as `SEARCH_RESET` or as a `SEARCH` that
answered `OK` (10_state.md R17). -/
theorem Completed.search {i : Instr} {s t : State} (hc : Completed i s t) :
    KeepsSearch s t ∨ SearchLegal t ∧ SearchSound t ∧
      (i = .searchReset ∨ i = .search ∧ ∃ result, t.responses = s.responses ++ [⟨.ok, result⟩]) := by
  cases hc with
  | sent _ hk _ => exact .inl hk
  | answered _ ha => exact .inl ha.1
  | searched hi hr _ hl hs => exact .inr ⟨hl, hs, hi.imp_right fun h => ⟨h, _, hr.responses⟩⟩

/-- The response of a completed instruction is one that the instruction returns. -/
theorem Completed.returns {i : Instr} {s t : State} {r : Response} (hc : Completed i s t)
    (hr : t.responses = s.responses ++ [r]) : Instr.Returns i r := by
  cases hc with
  | sent _ _ hn => exact absurd (hr.symm.trans hn.responses) (by simp)
  | answered _ ha =>
    obtain ⟨_, _, r', hr', hp⟩ := ha
    obtain rfl : r = r' := by simpa [hr] using hr'.responses
    exact hp
  | searched _ hr' hp _ _ =>
    obtain rfl : r = _ := by simpa [hr] using hr'.responses
    exact hp

/-- A completed instruction keeps the invariant (10_state.md R24). -/
theorem Completed.inv {i : Instr} {s t : State} (hc : Completed i s t) (h : Inv s) : Inv t := by
  obtain ⟨_, hl, hs, hcfg⟩ := h
  obtain ⟨evs, rs, hr, _⟩ := hc.ran
  refine ⟨hr.quiet, ?_, ?_, hr.cfg ▸ hcfg⟩
  · exact hc.search.elim (·.legal hl) (·.1)
  · exact hc.search.elim (·.sound hs) (·.2.1)

/-- The invariant does not speak of the queue of requests. -/
theorem takeInput_inv {s : State} (h : Inv s) : Inv (takeInput s) := h

/-- A block reset gives the block the registers of 10_state.md R26, which meet the invariant. -/
theorem blockReset_inv {s : State} (h : s.cfg.Ok) : Inv (blockReset s) :=
  ⟨⟨rfl, rfl⟩, .inr rfl, ⟨fun _ => rfl, by simp⟩, h⟩

/-- Settles O10: by the courses of a step; an instruction keeps the invariant in each of the ways it completes. -/
theorem stepKeepsTheInvariant : Obligations.StepKeepsTheInvariant := by
  intro s t h hstep
  obtain ⟨hquiet, _, _, hcfg⟩ := takeInput_inv h
  obtain rfl | rfl | ⟨i, he⟩ := step_cases hstep
  · exact h
  · exact blockReset_inv hcfg
  · exact (exec_completed hquiet he).inv (takeInput_inv h)

/-- The default parameters are as 00_scope.md R6 asks. -/
theorem default_ok : Params.default.Ok := ⟨by decide, by decide, by decide, Nat.succ_pos _⟩

/-- Settles O9: the registers by their reset values, the parameters by their defaults. -/
theorem resetStateHasTheInvariant : Obligations.ResetStateHasTheInvariant :=
  ⟨⟨⟨rfl, rfl⟩, .inr rfl, ⟨fun _ => rfl, by simp [State.reset]⟩, default_ok⟩, rfl, rfl, rfl, rfl⟩

/-- Settles O12: from the ways in which an instruction completes. -/
theorem operationsRunToOneResponse : Obligations.OperationsRunToOneResponse :=
  fun _ _ _ h he => (exec_completed h he).ran

/-- Settles O13: the one way of completing that does not keep the search state is that of the two instructions. -/
theorem onlySearchChangesTheSearchState : Obligations.OnlySearchChangesTheSearchState :=
  fun _ _ _ h he hk => ((exec_completed h he).search.resolve_left hk).2.2

/-! ### The byte form of a response -/

/-- The two bytes of a temperature, low byte first (30_encoding.md R68). -/
theorem temperature_bytes (high low : Byte) : Result.bytes (.temperature (high ++ low)) = [low, high] := by
  have hlow : (high ++ low).extractLsb' 0 8 = low := BitVec.extractLsb'_append_eq_right
  have hhigh : (high ++ low).extractLsb' 8 8 = high := BitVec.extractLsb'_append_eq_left
  simp only [Result.bytes, hlow, hhigh]

/-- Settles O15: the byte forms by the fields' own bytes, and the length by what a completed instruction returns. -/
theorem responsesHaveTheirLength : Obligations.ResponsesHaveTheirLength := by
  refine ⟨fun _ => ⟨rfl, rfl, rfl, rfl, rfl, rfl⟩, rfl, fun _ => ⟨rfl, rfl, rfl⟩, fun _ => ⟨rfl, rfl⟩, ?found,
    fun _ _ _ _ _ _ _ _ _ => rfl, temperature_bytes, ?length⟩
  case found =>
    intro b0 b1 b2 b3 b4 b5 b6 b7 more
    simp only [Result.bytes, addressBytes_addressOfBytes]
    rfl
  case length =>
    intro i s t r h he hr
    obtain ⟨hbytes, _⟩ := (exec_completed h he).returns hr
    rw [Response.bytes, List.length_cons, hbytes, Nat.add_comm]

end Sys2Proof.Machine
end

section
/-! PROOF. What a sample reads (20_memory.md R31, R32). -/

namespace Sys2Proof.Machine

/-- Settles O18: by whether the block drives the line; a sample of a released line is one of the environment. -/
theorem samplesObeyTheLine : Obligations.SamplesObeyTheLine := by
  intro k s
  refine ⟨lineSample_driven k, fun hreleased a ha => ?_⟩
  obtain ⟨_, hagrees⟩ := envSample_spec k s
  rw [lineSample_released k hreleased]
  exact hagrees a ha

end Sys2Proof.Machine
end

section
/-! SUPPORT. The encoding in both directions (30_encoding.md): for each format the operand bytes that it reads, for a
request and for a wire byte the instruction that has exactly those words, and the statements that follow. -/

namespace Sys2Proof

/-- The instruction has these words, fits its format and carries the name that the decoder gives it. -/
def Instr.HasWords (i : Instr) (f : Frame) : Prop := encode i = f ∧ i.fits = true ∧ i.canon = i

/-! ### The formats -/

/-- A byte is the literal of its value. -/
theorem byte_eq_ofNat {b : Byte} {n : Nat} (h : b.toNat = n) : b = BitVec.ofNat 8 n := by
  rw [← h, BitVec.ofNat_toNat, BitVec.setWidth_eq]

theorem formatN_eq_ok {i j : Instr} {rest : List Byte} : formatN j rest = .ok i ↔ rest = [] ∧ j = i := by
  cases rest <;> simp [formatN]

theorem formatBit_eq_ok {i : Instr} {rest : List Byte} :
    formatBit rest = .ok i ↔ rest = [0x00#8] ∧ i = .writeBit false ∨ rest = [0x01#8] ∧ i = .readBit := by
  constructor
  · intro h
    unfold formatBit at h
    split at h
    · split at h
      · cases h
        exact .inl ⟨by simpa, rfl⟩
      · split at h
        · cases h
          exact .inr ⟨by simpa, rfl⟩
        · cases h
    · cases h
  · rintro (⟨rfl, rfl⟩ | ⟨rfl, rfl⟩) <;> rfl

theorem formatByte_singleton (v : Byte) : formatByte [v] = .ok (Instr.writeByte v).canon := by
  by_cases hv : v = 0xFF#8
  · subst hv
    rfl
  · simp [formatByte, Instr.canon, hv]

theorem formatByte_eq_ok {i : Instr} {rest : List Byte} :
    formatByte rest = .ok i ↔ ∃ v, rest = [v] ∧ i = (Instr.writeByte v).canon := by
  constructor
  · intro h
    match rest, h with
    | [v], h => exact ⟨v, rfl, Except.ok.inj (h.symm.trans (formatByte_singleton v))⟩
  · rintro ⟨v, rfl, rfl⟩
    exact formatByte_singleton v

theorem formatCb_eq_ok {i : Instr} {rest : List Byte} :
    formatCb rest = .ok i ↔ ∃ c v, rest = [c, v] ∧ i = .crc8Update c v := by
  constructor
  · intro h
    match rest, h with
    | [c, v], h => exact ⟨c, v, rfl, (Except.ok.inj h).symm⟩
  · rintro ⟨c, v, rfl, rfl⟩
    rfl

/-- The count byte is the number of bytes that follow it, so a sequence that is read has at most 255. -/
theorem formatSeq_eq_ok {mk : List Byte → Instr} {i : Instr} {rest : List Byte} :
    formatSeq mk rest = .ok i ↔ ∃ bytes, bytes.length ≤ 255 ∧ rest = encodeSeq bytes ∧ i = mk bytes := by
  constructor
  · intro h
    unfold formatSeq at h
    split at h
    next n bytes =>
      split at h
      next hn =>
        cases h
        exact ⟨bytes, by omega, by rw [encodeSeq, byte_eq_ofNat hn.symm], rfl⟩
      next => cases h
    next => cases h
  · rintro ⟨bytes, hl, rfl, rfl⟩
    have hn : bytes.length = (BitVec.ofNat 8 bytes.length).toNat := by rw [BitVec.toNat_ofNat]; omega
    simp only [formatSeq, encodeSeq, ← hn, if_true]

theorem formatT_eq_ok {mk : Target → Instr} {i : Instr} {rest : List Byte} :
    formatT mk rest = .ok i ↔ ∃ t, rest = encodeTarget t ∧ i = mk t := by
  constructor
  · intro h
    unfold formatT at h
    split at h
    next t ht =>
      cases h
      exact ⟨t, by simpa using readTarget_ok ht, rfl⟩
    all_goals cases h
  · rintro ⟨t, rfl, rfl⟩
    simp [formatT]

theorem formatCt_eq_ok {i : Instr} {rest : List Byte} :
    formatCt rest = .ok i ↔ ∃ cmd t, rest = cmd :: encodeTarget t ∧ i = .addressedCommand cmd t := by
  cases rest with
  | nil => simp [formatCt]
  | cons cmd rest => simp [formatCt, formatT_eq_ok]

theorem formatWsp_eq_ok {i : Instr} {rest : List Byte} :
    formatWsp rest = .ok i ↔
      ∃ t th tl cfg, rest = encodeTarget t ++ [th, tl, cfg] ∧ i = .writeScratchpad t th tl cfg := by
  constructor
  · intro h
    unfold formatWsp at h
    split at h
    next t th tl cfg ht =>
      cases h
      exact ⟨t, th, tl, cfg, readTarget_ok ht, rfl⟩
    all_goals cases h
  · rintro ⟨t, th, tl, cfg, rfl, rfl⟩
    simp [formatWsp]

theorem formatFsp_eq_ok {i : Instr} {rest : List Byte} :
    formatFsp rest = .ok i ↔ ∃ fam sp, rest = fam :: sp.bytes ∧ i = .decodeTemperature fam sp := by
  constructor
  · intro h
    match rest, h with
    | [fam, b0, b1, b2, b3, b4, b5, b6, b7, b8], h =>
      exact ⟨fam, ⟨b0, b1, b2, b3, b4, b5, b6, b7, b8⟩, rfl, (Except.ok.inj h).symm⟩
  · rintro ⟨fam, sp, rfl, rfl⟩
    rfl

/-! ### Both directions -/

/-- The decoder's name for an instruction has the instruction's words (30_encoding.md R76). -/
theorem canon_hasWords {i : Instr} (h : i.fits = true) : i.canon.HasWords (encode i) := by
  unfold Instr.canon
  split
  · subst i
    exact ⟨rfl, rfl, rfl⟩
  · split
    · subst i
      exact ⟨rfl, rfl, rfl⟩
    · exact ⟨rfl, h, by simp [Instr.canon, *]⟩

/-- A request that decodes is the encoding of its instruction: by the op byte, then by the format of that op. -/
theorem decodeRequest_hasWords {bytes : List Byte} {i : Instr} (h : decodeRequest bytes = .ok i) :
    i.HasWords (.request bytes) := by
  cases bytes with
  | nil => cases h
  | cons op rest =>
    simp only [decodeRequest] at h
    split at h
    case h_19 => cases h
    all_goals
      rename_i hop
      obtain rfl := byte_eq_ofNat hop
    -- `h_<n>` is the arm of op `n - 1`; arms of one format are one case.
    case h_1 | h_8 | h_9 | h_11 =>
      obtain ⟨rfl, rfl⟩ := formatN_eq_ok.1 h
      exact ⟨rfl, rfl, rfl⟩
    case h_2 => obtain ⟨rfl, rfl⟩ | ⟨rfl, rfl⟩ := formatBit_eq_ok.1 h <;> exact ⟨rfl, rfl, rfl⟩
    case h_3 =>
      obtain ⟨v, rfl, rfl⟩ := formatByte_eq_ok.1 h
      exact canon_hasWords (i := .writeByte v) rfl
    case h_4 =>
      obtain ⟨cmd, t, rfl, rfl⟩ := formatCt_eq_ok.1 h
      exact ⟨rfl, rfl, rfl⟩
    case h_5 =>
      obtain ⟨c, v, rfl, rfl⟩ := formatCb_eq_ok.1 h
      exact ⟨rfl, rfl, rfl⟩
    case h_6 | h_7 =>
      obtain ⟨bytes, hl, rfl, rfl⟩ := formatSeq_eq_ok.1 h
      exact ⟨rfl, decide_eq_true hl, rfl⟩
    case h_10 | h_12 | h_13 | h_15 | h_16 | h_18 =>
      obtain ⟨t, rfl, rfl⟩ := formatT_eq_ok.1 h
      exact ⟨rfl, rfl, rfl⟩
    case h_14 =>
      obtain ⟨t, th, tl, cfg, rfl, rfl⟩ := formatWsp_eq_ok.1 h
      exact ⟨rfl, rfl, rfl⟩
    case h_17 =>
      obtain ⟨fam, sp, rfl, rfl⟩ := formatFsp_eq_ok.1 h
      exact ⟨rfl, rfl, rfl⟩

/-- A wire byte that decodes is the byte of its instruction (30_encoding.md R71). -/
theorem decodeWire_hasWords {byte : Byte} {i : Instr} (h : decodeWire byte = .ok i) : i.HasWords (.wire byte) := by
  unfold decodeWire at h
  split at h
  case h_10 => cases h
  all_goals
    rename_i hbyte
    obtain rfl := byte_eq_ofNat hbyte
    cases h
    exact ⟨rfl, rfl, rfl⟩

/-- Settles O2: by the layer of the words. -/
theorem decodedWordsAreTheEncoding : Obligations.DecodedWordsAreTheEncoding := by
  intro f i h
  cases f with
  | request bytes => exact decodeRequest_hasWords h
  | wire byte => exact decodeWire_hasWords h

/-- Settles O1: by the instruction; each format reads the operand bytes that the encoder writes for it. -/
theorem decodeEncodeGivesBackEveryInstruction : Obligations.DecodeEncodeGivesBackEveryInstruction := by
  intro i hfits
  cases i with
  | writeBit b => cases b <;> rfl
  | writeByte v => exact formatByte_singleton v
  | addressedCommand cmd t => exact formatCt_eq_ok.2 ⟨cmd, t, rfl, rfl⟩
  | crc8 bytes => exact formatSeq_eq_ok.2 ⟨bytes, of_decide_eq_true hfits, rfl, rfl⟩
  | crc8Check bytes => exact formatSeq_eq_ok.2 ⟨bytes, of_decide_eq_true hfits, rfl, rfl⟩
  | startConversion t => exact formatT_eq_ok.2 ⟨t, rfl, rfl⟩
  | parasitePowered t => exact formatT_eq_ok.2 ⟨t, rfl, rfl⟩
  | readScratchpad t => exact formatT_eq_ok.2 ⟨t, rfl, rfl⟩
  | copyScratchpad t => exact formatT_eq_ok.2 ⟨t, rfl, rfl⟩
  | recallEeprom t => exact formatT_eq_ok.2 ⟨t, rfl, rfl⟩
  | readTemperature t => exact formatT_eq_ok.2 ⟨t, rfl, rfl⟩
  | writeScratchpad t th tl cfg => exact formatWsp_eq_ok.2 ⟨t, th, tl, cfg, rfl, rfl⟩
  | _ => rfl

/-- Settles O3: the decoder reads the six words to the end. -/
theorem writtenOutWordsDecode : Obligations.WrittenOutWordsDecode := ⟨rfl, rfl, rfl, rfl, rfl, rfl⟩

/-! ### What the decoder rejects -/

/-- The request of every instruction that fits its format has the length of that format (30_encoding.md R66). -/
theorem requestLength_encode (i : Instr) : Laws.RequestLength.Statement i := by
  cases i with
  | busReset => exact Laws.RequestLength.busReset
  | writeBit b => exact Laws.RequestLength.writeBit b
  | writeByte v => exact Laws.RequestLength.writeByte v
  | addressedCommand cmd t => exact Laws.RequestLength.addressedCommand cmd t
  | crc8Update c v => exact Laws.RequestLength.crc8Update c v
  | crc8 bytes => exact Laws.RequestLength.crc8 bytes
  | crc8Check bytes => exact Laws.RequestLength.crc8Check bytes
  | searchReset => exact Laws.RequestLength.searchReset
  | search => exact Laws.RequestLength.search
  | startConversion t => exact Laws.RequestLength.startConversion t
  | conversionInProgress => exact Laws.RequestLength.conversionInProgress
  | parasitePowered t => exact Laws.RequestLength.parasitePowered t
  | readScratchpad t => exact Laws.RequestLength.readScratchpad t
  | writeScratchpad t th tl cfg => exact Laws.RequestLength.writeScratchpad t th tl cfg
  | copyScratchpad t => exact Laws.RequestLength.copyScratchpad t
  | recallEeprom t => exact Laws.RequestLength.recallEeprom t
  | decodeTemperature fam sp => exact Laws.RequestLength.decodeTemperature fam sp
  | readTemperature t => exact Laws.RequestLength.readTemperature t
  | readBit => exact Laws.RequestLength.readBit
  | readByte => exact Laws.RequestLength.readByte
  | wSearch => exact Laws.RequestLength.wSearch
  | wMatch => exact Laws.RequestLength.wMatch
  | wSkip => exact Laws.RequestLength.wSkip
  | wConvert => exact Laws.RequestLength.wConvert
  | wWriteScratchpad => exact Laws.RequestLength.wWriteScratchpad
  | wReadScratchpad => exact Laws.RequestLength.wReadScratchpad
  | wCopyScratchpad => exact Laws.RequestLength.wCopyScratchpad
  | wRecallEeprom => exact Laws.RequestLength.wRecallEeprom
  | wReadPowerSupply => exact Laws.RequestLength.wReadPowerSupply

/-- A request of a length other than its format's does not decode (30_encoding.md R70 item 4): if it did, it would be the
encoding of an instruction. -/
theorem decodeRequest_wrongLength {bytes : List Byte} (h : bytes.length ≠ requestLength bytes) :
    ∃ why, decodeRequest bytes = .error why := by
  cases hd : decodeRequest bytes with
  | error why => exact ⟨why, rfl⟩
  | ok i =>
    obtain ⟨hwords, hfits, _⟩ := decodeRequest_hasWords hd
    exact absurd (requestLength_encode i hfits bytes hwords) h

/-- An op byte from 0x12 on is unassigned (30_encoding.md R70 item 1). -/
theorem decodeRequest_unassigned {op : Byte} (rest : List Byte) (h : 0x12 ≤ op.toNat) :
    decodeRequest (op :: rest) = .error .unassignedOp := by
  simp only [decodeRequest]
  split
  case h_19 => rfl
  all_goals omega

theorem formatBit_badOperand {b : Byte} (h0 : b ≠ 0x00#8) (h1 : b ≠ 0x01#8) :
    formatBit [b] = .error .badBitOperand := by
  simp [formatBit, h0, h1]

/-- A format whose target cannot be read is rejected for the target's reason. -/
theorem formatT_error (mk : Target → Instr) {rest : List Byte} {why : Reject} (h : readTarget rest = .error why) :
    formatT mk rest = .error why := by
  simp only [formatT, h]

theorem formatWsp_error {rest : List Byte} {why : Reject} (h : readTarget rest = .error why) :
    formatWsp rest = .error why := by
  simp only [formatWsp, h]

/-- A request with a target right after its op byte is rejected for the target's reason. -/
theorem decodeRequest_badTarget {op : Byte} {rest : List Byte} {why : Reject}
    (hop : op ∈ [0x09#8, 0x0B#8, 0x0C#8, 0x0D#8, 0x0E#8, 0x0F#8, 0x11#8]) (h : readTarget rest = .error why) :
    decodeRequest (op :: rest) = .error why := by
  simp only [List.mem_cons, List.not_mem_nil, or_false] at hop
  obtain rfl | rfl | rfl | rfl | rfl | rfl | rfl := hop
  case inr.inr.inr.inl => exact formatWsp_error h -- op 0x0D is the one of format `WSP`
  all_goals exact formatT_error _ h

end Sys2Proof

namespace Sys2Proof.Machine

/-- Settles O4: the step refuses what the decoder rejects, each malformation by the decoder's reason for it. -/
theorem malformedRequestsAreRefused : Obligations.MalformedRequestsAreRefused := by
  intro s bytes rest hs
  refine ⟨?empty, ?unassigned, ?bit, ?target, ?commandTarget, ?length⟩
  case empty =>
    rintro rfl
    exact step_eq_refused hs rfl
  case unassigned =>
    rintro op ops rfl hop
    exact step_eq_refused hs (decodeRequest_unassigned ops hop)
  case bit =>
    rintro b rfl h0 h1
    exact step_eq_refused hs (formatBit_badOperand h0 h1)
  case target =>
    rintro op tag ops rfl hop h0 h1
    exact step_eq_refused hs (decodeRequest_badTarget hop (readTarget_badTag tag ops h0 h1))
  case commandTarget =>
    rintro cmd tag ops rfl h0 h1
    exact step_eq_refused hs (formatT_error _ (readTarget_badTag tag ops h0 h1))
  case length =>
    rintro op ops rfl _ hl
    obtain ⟨why, hd⟩ := decodeRequest_wrongLength hl
    exact ⟨why, step_eq_refused hs hd⟩

/-! ### The meanings of the encoded instructions -/

/-- A wire command byte is one byte transfer and no response, from every quiet state. -/
theorem wireCommand_quiet {s : State} (h : Quiet s) (byte : Byte) :
    ∃ r t, wireCommand byte s = .next t ∧ KeepsSearch s t ∧ Ran s t (byteEvents byte r) [] :=
  ⟨_, _, guardWindow_quiet true h.2 _, xferByte_keepsSearch byte s, xferByte_ran h byte⟩

/-- Settles O24: each of the nine instructions is the wire command of its byte. -/
theorem wireCommandBytesAreSent : Obligations.WireCommandBytesAreSent := by
  intro s i byte h hmem
  simp only [List.mem_cons, Prod.mk.injEq, List.not_mem_nil, or_false] at hmem
  obtain ⟨rfl, rfl⟩ | ⟨rfl, rfl⟩ | ⟨rfl, rfl⟩ | ⟨rfl, rfl⟩ | ⟨rfl, rfl⟩ | ⟨rfl, rfl⟩ | ⟨rfl, rfl⟩ | ⟨rfl, rfl⟩ |
    ⟨rfl, rfl⟩ := hmem
  all_goals exact wireCommand_quiet h _

/-- A family outside A, B and C has no decode variant (44_temperature_decoder.md R125). -/
theorem variantOf_unknown {p : Params} {fam : Byte} (h : ¬ p.Known fam) : variantOf p fam = none := by
  obtain ⟨hlegacy, hprog⟩ := not_or.1 h
  simp only [variantOf, if_neg hlegacy, if_neg hprog]

/-- Settles O5: the first two checks are on the operand's form, the family's on its variant. -/
theorem badOperandsAreRefused : Obligations.BadOperandsAreRefused := by
  intro s
  refine ⟨rfl, rfl, fun fam sp h => ?_, fun a h => ?_⟩
  · simp only [exec, execDecodeTemperature, variantOf_unknown h]
  · simp only [exec, execReadTemperature, variantOf_unknown h]

/-- Settles O6: both names of each transfer are the same transfer. -/
theorem pseudoInstructionsAreTheirExpansions : Obligations.PseudoInstructionsAreTheirExpansions :=
  fun _ => ⟨rfl, rfl⟩

end Sys2Proof.Machine
end

section
/-! PROOF. Bus transport (40_bus_transport.md): the reset, one slot, one byte, a selected command, and what an operation
that opens with a reset does on a bus that answers it. -/

namespace Sys2Proof.Machine

/-! ### The response at the end of an operation -/

/-- The response that ends an operation adds no event to those it performed (10_state.md R19). -/
theorem Ran.then_respond {s u : State} {evs : List Event} (h : Ran s u evs []) (st : Status) (r : Result) :
    Ran s (respond st r u) evs [⟨st, r⟩] := by
  simpa using h.trans (respond_ran h.quiet st r)

/-- The failure that ends an operation adds no event to those it performed (10_state.md R23). -/
theorem Ran.then_fail {s u : State} {evs : List Event} (h : Ran s u evs []) (st : Status) (k : ResultKind) :
    Ran s (fail st k u) evs [⟨st, freeResult u.draws k⟩] := by
  simpa using h.trans (fail_ran h.quiet st k)

/-! ### The transport operations -/

/-- Settles O19: by the courses of the reset pulse, each with the response it leads to. -/
theorem busResetReportsPresence : Obligations.BusResetReportsPresence := by
  intro s h
  refine ⟨_, guardWindow_quiet _ h.2 _, ?_⟩
  obtain ⟨hk, ⟨hf, evs, he, hr⟩ | ⟨ht, hr⟩⟩ := resetPulse_cases h
  · simp only [hf, Bool.false_eq_true, if_false]
    exact ⟨hk.trans (fail_keepsSearch _ _ _), .inl ⟨evs, he, hr.then_fail _ _⟩⟩
  · simp only [ht, if_true]
    exact ⟨hk.trans (respond_keepsSearch _ _ _), .inr (hr.then_respond _ _)⟩

/-- One slot and its sample, from every quiet state (40_bus_transport.md R88). -/
theorem bitTransfer_quiet {s : State} (h : Quiet s) (b : Bool) :
    ∃ r t, bitTransfer b s = .next t ∧ KeepsSearch s t ∧ Ran s t [.slot b r] [⟨.ok, .bit r⟩] ∧ (b = false → r = false) :=
  ⟨_, _, guardWindow_quiet true h.2 _, (slot_keepsSearch b s).trans (respond_keepsSearch _ _ _),
    (slot_ran b s).then_respond _ _, fun hb => hb ▸ slot_false_snd s⟩

/-- Settles O20: both instructions are the transfer of the bit. -/
theorem writeBitIsOneSlot : Obligations.WriteBitIsOneSlot := by
  rintro s b i h (rfl | ⟨rfl, rfl⟩)
  · exact bitTransfer_quiet h b
  · exact bitTransfer_quiet h true

/-- One byte transfer and the byte read back, from every quiet state (40_bus_transport.md R91). -/
theorem byteTransfer_quiet {s : State} (h : Quiet s) (v : Byte) :
    ∃ r t, byteTransfer v s = .next t ∧ KeepsSearch s t ∧ Ran s t (byteEvents v r) [⟨.ok, .byte r⟩] ∧ r &&& ~~~v = 0#8 :=
  ⟨_, _, guardWindow_quiet true h.2 _, (xferByte_keepsSearch v s).trans (respond_keepsSearch _ _ _),
    (xferByte_ran h v).then_respond _ _, xferByte_masked v s⟩

/-- Settles O21: both instructions are the transfer of the byte. -/
theorem writeByteIsEightSlots : Obligations.WriteByteIsEightSlots := by
  rintro s v i h (rfl | ⟨rfl, rfl⟩)
  · exact byteTransfer_quiet h v
  · exact byteTransfer_quiet h 0xFF#8

/-- Settles O23: an address made of eight bytes has those bytes. -/
theorem selectionBytesOfTargets : Obligations.SelectionBytesOfTargets :=
  ⟨rfl, fun _ _ _ _ _ _ _ _ => congrArg (0x55#8 :: ·) (addressBytes_addressOfBytes ..)⟩

/-- Settles O22: the addressed operation with no payload, whose result has no field to leave free. -/
theorem addressedCommandSendsItsByte : Obligations.AddressedCommandSendsItsByte :=
  fun _ cmd target h => ⟨_, guardWindow_quiet _ h.2 _,
    addressed_ran h target cmd .none (respond .ok .none) _ _ (fun _ => rfl)
      fun _ hu _ => ⟨respond_keepsSearch _ _ _, [], _, respond_ran hu .ok .none, rfl, rfl⟩⟩

/-! ### A bus that answers the reset -/

/-- The events of a failed reset disagree with an environment that answers the reset with presence. -/
theorem BusAlive.not_allowsAll {s : State} (ha : BusAlive s) {evs : List Event} (hf : ResetFailed evs) :
    ¬ Environment.AllowsAll s.cfg s.env evs := by
  obtain ⟨hhigh, hpresent⟩ := ha
  obtain rfl | rfl := hf
  · rintro ⟨⟨_, hsample⟩, _⟩
    cases hsample _ _ _ rfl hhigh
  · rintro ⟨_, ⟨_, hsample⟩, _⟩
    cases hsample _ _ _ rfl hpresent

/-- On such a bus the reset pulse sees presence (40_bus_transport.md R85). -/
theorem resetPulse_alive {s : State} (h : Quiet s) (ha : BusAlive s) :
    (resetPulse s).2 = true ∧ Ran s (resetPulse s).1 resetOk [] := by
  obtain ⟨_, ⟨_, evs, hf, hr⟩ | hseen⟩ := resetPulse_cases h
  · exact absurd hr.allowed (ha.not_allowsAll hf)
  · exact hseen

/-- A response that an operation may give once its reset saw presence (60_exceptions.md R131). -/
def Instr.ReturnsPastReset (i : Instr) (r : Response) : Prop :=
  r.status ≠ .busFault ∧ (Instr.failsOnlyAtReset i = true → r.status = .ok)

/-- `OK` is open to every operation (60_exceptions.md R131). -/
theorem returnsPastReset_ok (i : Instr) (result : Result) : Instr.ReturnsPastReset i ⟨.ok, result⟩ :=
  ⟨nofun, fun _ => rfl⟩

/-- The instruction completes with one response, of which `P` holds, after a reset that saw presence and further events. -/
def Carried (P : Response → Prop) (s : State) (o : Host.Outcome State Fault Refusal) : Prop :=
  ∃ t r evs, o = .next t ∧ t.responses = s.responses ++ [r] ∧ t.history = s.history ++ resetOk ++ evs ∧ P r

section
variable {P : Response → Prop} {s : State}

/-- An operation that opens with a reset answers on a live bus as what it does after the reset. -/
theorem carried_resetPulse (h : Quiet s) (ha : BusAlive s) (b : Bool) {k : ResultKind} {next : State → State}
    (hnext : ∀ u, Quiet u → ∃ evs r, Ran u (next u) evs [r] ∧ P r) :
    Carried P s (guardWindow b s
      (if (resetPulse s).2 then next (resetPulse s).1 else fail .busFault k (resetPulse s).1)) := by
  obtain ⟨ht, hr⟩ := resetPulse_alive h ha
  obtain ⟨evs, r, hn, hp⟩ := hnext _ hr.quiet
  have hran := hr.trans hn
  refine ⟨_, r, evs, guardWindow_quiet b h.2 _, ?_⟩
  simp only [ht, if_true]
  exact ⟨hran.responses, by rw [hran.history, List.append_assoc], hp⟩

/-- The addressed operations as operations that open with a reset (40_bus_transport.md R92, R93). -/
theorem addressed_eq (tg : Target) (command : Byte) (k : ResultKind) (next : State → State) (s : State) :
    addressed tg command k next s =
      if (resetPulse s).2 then next (xferByte command (sendBytes (selectBytes tg) (resetPulse s).1)).1
      else fail .busFault k (resetPulse s).1 := by
  cases hp : (resetPulse s).2 <;> simp [addressed, select, hp]

/-- An addressed operation answers on a live bus as what it does after its command byte. -/
theorem carried_addressed (h : Quiet s) (ha : BusAlive s) (b : Bool) {tg : Target} {command : Byte} {k : ResultKind}
    {next : State → State} (hnext : ∀ u, Quiet u → Answered P u (next u)) :
    Carried P s (guardWindow b s (addressed tg command k next s)) := by
  rw [addressed_eq]
  refine carried_resetPulse h ha b (next := fun u => next (xferByte command (sendBytes (selectBytes tg) u)).1)
    fun u hu => ?_
  obtain ⟨got, _, hs⟩ := sendBytes_ran hu (selectBytes tg)
  have hx := hs.trans (xferByte_ran hs.quiet command)
  obtain ⟨_, evs, r, hr, hp⟩ := hnext _ hx.quiet
  exact ⟨_, r, hx.trans hr, hp⟩

end

/-- `SEARCH` after its reset ends with one response, and not with `BUS_FAULT` (42_device_search_engine.md R109). -/
theorem searchRound_returnsPastReset {u : State} (hu : Quiet u) :
    ∃ evs r, Ran u (searchRound u) evs [r] ∧ Instr.ReturnsPastReset .search r := by
  obtain ⟨evs, rs, hr, hl⟩ := (searchRound_completed hu).ran
  obtain ⟨r, rfl⟩ := List.length_eq_one_iff.mp hl
  refine ⟨evs, r, hr, ?_, nofun⟩
  have hresp := hr.responses
  simp only [searchRound] at hresp
  split at hresp
  · obtain ⟨_, rfl⟩ := List.append_singleton_inj.mp hresp
    nofun
  · obtain ⟨_, rfl⟩ := List.append_singleton_inj.mp hresp
    nofun

/-- A family that the decode accepts has a variant (44_temperature_decoder.md R125). -/
theorem variantOf_known {p : Params} {fam : Byte} (h : p.Known fam) : ∃ v, variantOf p fam = some v := by
  by_cases hl : fam = p.familyA
  · exact ⟨.legacy, if_pos hl⟩
  · exact ⟨.prog, by rw [variantOf, if_neg hl, if_pos (h.resolve_left hl)]⟩

/-- `READ_TEMPERATURE`, well formed, is the addressed read of the nine bytes and the decode of a variant
(44_temperature_decoder.md R127). -/
theorem execReadTemperature_wellFormed {tg : Target} {s : State} (hw : Instr.wellFormed s.cfg (.readTemperature tg) = true) :
    ∃ v, execReadTemperature tg s = guardWindow (resetReaches s) s
      (addressed tg 0xBE#8 .temperature (readNine .temperature (fun sp => .temperature (decodeFixed v sp))) s) := by
  cases tg with
  | broadcast => cases hw
  | address a =>
    obtain ⟨_, hops⟩ := Bool.and_eq_true_iff.mp hw
    obtain ⟨v, hv⟩ := variantOf_known (of_decide_eq_true hops)
    exact ⟨v, by simp only [execReadTemperature, hv]⟩

/-- Each operation that opens with a reset is carried by a live bus to a response other than `BUS_FAULT`. -/
theorem exec_carried {i : Instr} {s : State} (h : Quiet s) (ha : BusAlive s) (ho : Instr.opensWithReset i = true)
    (hw : i.wellFormed s.cfg = true) (hd : i = .search → s.searchLd ≠ 0x00#8) :
    Carried (Instr.ReturnsPastReset i) s (exec i s) := by
  have hok := returnsPastReset_ok i
  cases i with
  | busReset => exact carried_resetPulse h ha _ (next := respond .ok .none) fun u hu => (answered_respond hu (hok _)).2
  | search =>
    rw [exec, execSearch, if_neg (hd rfl)]
    exact carried_resetPulse h ha _ fun u hu => searchRound_returnsPastReset hu
  | addressedCommand cmd tg => exact carried_addressed h ha _ fun u hu => answered_respond hu (hok _)
  | startConversion tg => exact carried_addressed h ha _ fun u hu => answered_respond hu (hok _)
  | parasitePowered tg => exact carried_addressed h ha _ fun u _ => answered_slot true (hok _)
  | readScratchpad tg =>
    exact carried_addressed h ha _ fun u hu => answered_readNine hu (fun _ => hok _) fun _ => ⟨nofun, nofun⟩
  | writeScratchpad tg th tl cfg =>
    refine carried_addressed h ha _ fun u hu => ?_
    obtain ⟨got, _, hr⟩ := sendBytes_ran hu (scratchpadPayload s.cfg tg th tl cfg)
    exact (answered_respond hr.quiet (hok _)).after hr (sendBytes_keepsSearch _ u)
  | copyScratchpad tg =>
    refine carried_addressed h ha _ fun u hu => ?_
    have hr := namedDelay_ran hu .copySettle
    exact (answered_respond hr.quiet (hok _)).after hr (namedDelay_keepsSearch u _)
  | recallEeprom tg => exact carried_addressed h ha _ fun u hu => answered_recallPoll hu _ (hok _) ⟨nofun, nofun⟩
  | readTemperature tg =>
    obtain ⟨v, hv⟩ := execReadTemperature_wellFormed hw
    rw [exec, hv]
    exact carried_addressed h ha _ fun u hu => answered_readNine hu (fun _ => hok _) fun _ => ⟨nofun, nofun⟩
  | _ => cases ho

/-- Settles O46: each operation is carried past its reset. -/
theorem liveBusCarriesTheOperation : Obligations.LiveBusCarriesTheOperation :=
  fun _ _ h ha ho hw hd => exec_carried h ha ho hw hd

end Sys2Proof.Machine
end

section
/-! PROOF. The CRC-8 operations (41_crc8_checker.md). Two facts carry them: an update is the bit-serial register fed the
byte's bits, and it depends, injectively, on `c ^^^ v` alone. So a sequence passes `CRC8_CHECK` exactly when the CRC of all
of it, the check byte included, is 0. -/

namespace Sys2Proof.Machine

/-! ### The byte loop and the bit-serial register -/

/-- One turn of the loop is one bit of the register. -/
theorem crc8Shift_eq_crcSerial (c b : Byte) : crc8Shift c b = crcSerial c (b.getLsbD 0) := by
  rw [crc8Shift, crcSerial, BitVec.getLsbD_xor]

/-- `n` turns of the loop feed the register the low `n` bits, least significant first. -/
theorem crc8Bits_eq_foldl (n : Nat) (c b : Byte) :
    crc8Bits n c b = ((List.range n).map b.getLsbD).foldl crcSerial c := by
  induction n generalizing c b with
  | zero => rfl
  | succ n ih =>
    have hshift : (b >>> 1).getLsbD = b.getLsbD ∘ Nat.succ := by
      funext i
      rw [BitVec.getLsbD_ushiftRight, Function.comp_apply, Nat.succ_eq_one_add]
    rw [crc8Bits, ih, crc8Shift_eq_crcSerial, hshift, List.range_succ_eq_map, List.map_cons, List.map_map, List.foldl_cons]

theorem crc8Update_eq_foldl (c v : Byte) : crc8Update c v = (byteBits v).foldl crcSerial c :=
  crc8Bits_eq_foldl 8 c v

theorem crc8From_eq_foldl (c : Byte) (bytes : List Byte) : crc8From c bytes = (bytesBits bytes).foldl crcSerial c := by
  induction bytes generalizing c with
  | nil => rfl
  | cons b bs ih => rw [crc8From, ih, crc8Update_eq_foldl, bytesBits, List.foldl_append]

theorem crc8_eq_foldl (bytes : List Byte) : crc8 bytes = (bytesBits bytes).foldl crcSerial 0x00#8 :=
  crc8From_eq_foldl _ bytes

/-- Settles O25: by the byte loop's equality with the register. -/
theorem crc8IsTheBitSerialRegister : Obligations.Crc8IsTheBitSerialRegister := fun _ =>
  ⟨fun c v => by rw [← crc8Update_eq_foldl]; rfl, fun bytes => by rw [← crc8_eq_foldl]; rfl⟩

/-! ### An update depends, injectively, on `c ^^^ v` -/

/-- The data byte may be added to the register before the turn; what is left of it afterwards is its upper bits. -/
theorem crc8Shift_eq_xor (c b : Byte) : crc8Shift c b = crc8Shift (c ^^^ b) 0x00#8 ^^^ b >>> 1 := by
  have hxor : (c ^^^ b) >>> 1 ^^^ b >>> 1 = c >>> 1 := by
    rw [BitVec.ushiftRight_xor_distrib, BitVec.xor_assoc, BitVec.xor_self, BitVec.xor_zero]
  simp only [crc8Shift, BitVec.xor_zero]
  split
  · rw [BitVec.xor_assoc, BitVec.xor_comm 0x8C#8, ← BitVec.xor_assoc, hxor]
  · exact hxor.symm

theorem crc8Bits_eq_xor (n : Nat) (c b : Byte) : crc8Bits n c b = crc8Bits n (c ^^^ b) 0x00#8 ^^^ b >>> n := by
  induction n generalizing c b with
  | zero => simp only [crc8Bits, BitVec.ushiftRight_zero, BitVec.xor_assoc, BitVec.xor_self, BitVec.xor_zero]
  | succ n ih =>
    have hturn : crc8Shift c b ^^^ b >>> 1 = crc8Shift (c ^^^ b) 0x00#8 := by
      rw [crc8Shift_eq_xor, BitVec.xor_assoc, BitVec.xor_self, BitVec.xor_zero]
    simp only [crc8Bits, ih (crc8Shift c b), hturn, BitVec.zero_ushiftRight, BitVec.shiftRight_add, Nat.add_comm n 1]

/-- Eight turns leave nothing of the data byte but what was added to the register. -/
theorem crc8Update_eq_xor (c v : Byte) : crc8Update c v = crc8Update (c ^^^ v) 0x00#8 := by
  have hshift : v >>> 8 = 0x00#8 := BitVec.ushiftRight_eq_zero (Nat.le_refl 8)
  rw [crc8Update, crc8Bits_eq_xor, hshift, BitVec.xor_zero, crc8Update]

/-- The polynomial has the top bit, so the top bit tells whether it was added (41_crc8_checker.md R100). -/
theorem crc8Shift_top (c b : Byte) : (crc8Shift c b).getLsbD 7 = (c ^^^ b).getLsbD 0 := by
  rw [crc8Shift]
  split
  · next h => rw [h]; simp
  · next h => rw [Bool.not_eq_true] at h; rw [h]; simp

/-- A byte is its lowest bit and the bits above it. -/
theorem byte_eq_of_shift {c d : Byte} (hlow : c.getLsbD 0 = d.getLsbD 0) (hhigh : c >>> 1 = d >>> 1) : c = d := by
  apply BitVec.eq_of_getLsbD_eq
  intro i _
  cases i with
  | zero => exact hlow
  | succ i =>
    have hi := congrArg (·.getLsbD i) hhigh
    simpa only [BitVec.getLsbD_ushiftRight, Nat.add_comm 1 i] using hi

theorem crc8Shift_injective (b : Byte) : Function.Injective (crc8Shift · b) := by
  intro c d (h : crc8Shift c b = crc8Shift d b)
  have hbit : (c ^^^ b).getLsbD 0 = (d ^^^ b).getLsbD 0 := by rw [← crc8Shift_top, h, crc8Shift_top]
  refine byte_eq_of_shift (by simpa using hbit) ?_
  simp only [crc8Shift, hbit] at h
  split at h
  · exact (BitVec.xor_left_inj _).mp h
  · exact h

theorem crc8Bits_injective (n : Nat) (b : Byte) : Function.Injective (crc8Bits n · b) := by
  induction n generalizing b with
  | zero => exact fun _ _ h => h
  | succ n ih => exact (ih (b >>> 1)).comp (crc8Shift_injective b)

theorem crc8Update_eq_iff {c d v w : Byte} : crc8Update c v = crc8Update d w ↔ c ^^^ v = d ^^^ w := by
  rw [crc8Update_eq_xor c, crc8Update_eq_xor d]
  exact (crc8Bits_injective 8 0x00#8).eq_iff

theorem crc8Update_eq_zero_iff {c v : Byte} : crc8Update c v = 0x00#8 ↔ c = v := by
  have hzero : 0x00#8 = crc8Update 0x00#8 0x00#8 := by decide
  rw [hzero, crc8Update_eq_iff, BitVec.xor_self, BitVec.xor_eq_zero_iff]

/-- Settles O27: the responses carry the two CRCs, whose equality is that of `c ^^^ v`. -/
theorem crc8UpdateTellsBytesApart : Obligations.Crc8UpdateTellsBytesApart := by
  intro c c' v v' s h
  have hresp := congrArg State.responses (Host.Outcome.next.inj h)
  have hcrc : crc8Update c v = crc8Update c' v' := by simpa using hresp
  rw [crc8Update_eq_iff] at hcrc
  constructor
  · rintro rfl
    exact (BitVec.xor_right_inj c).mp hcrc
  · rintro rfl
    exact (BitVec.xor_left_inj _).mp hcrc

/-! ### Sequences -/

theorem crc8From_append (c : Byte) (as bs : List Byte) : crc8From c (as ++ bs) = crc8From (crc8From c as) bs := by
  induction as generalizing c with
  | nil => rfl
  | cons a as ih => exact ih _

theorem crc8From_injective (bytes : List Byte) : Function.Injective (crc8From · bytes) := by
  induction bytes with
  | nil => exact fun _ _ h => h
  | cons b bs ih => exact fun c d h => (BitVec.xor_left_inj _).mp (crc8Update_eq_iff.mp (ih h))

/-- The CRC over a sequence and its check byte is 0 exactly when the check byte is right (41_crc8_checker.md R102). -/
theorem crc8_concat_eq_zero_iff (bytes : List Byte) (check : Byte) :
    crc8 (bytes ++ [check]) = 0x00#8 ↔ crc8 bytes = check := by
  rw [crc8, crc8From_append]
  exact crc8Update_eq_zero_iff

/-- Settles O26: the CRC of the longer sequence is 0, since its last byte is the CRC of the others. -/
theorem crc8OfASequenceWithItsCrcIsZero : Obligations.Crc8OfASequenceWithItsCrcIsZero := by
  intro bytes s t c h hresp
  obtain rfl := Host.Outcome.next.inj h
  have hcrc : crc8 bytes = c := by simpa using hresp
  refine ⟨_, rfl, ?_⟩
  rw [respond_responses, (crc8_concat_eq_zero_iff bytes c).mpr hcrc]

/-! ### The check -/

/-- A sequence with a check byte passes exactly when the CRC of the whole is 0 (41_crc8_checker.md R103). -/
theorem crc8Passes_iff {bytes : List Byte} (hne : bytes ≠ []) : crc8Passes bytes = true ↔ crc8 bytes = 0x00#8 := by
  obtain ⟨body, check, rfl⟩ := (List.eq_nil_or_concat' bytes).resolve_left hne
  rw [crc8_concat_eq_zero_iff]
  simp [crc8Passes]

/-- `CRC8_CHECK` by the CRC of the whole sequence. -/
theorem exec_crc8Check {bytes : List Byte} (hne : bytes ≠ []) (s : State) :
    exec (.crc8Check bytes) s =
      .next (if crc8 bytes = 0x00#8 then respond .ok .none s else fail .integrityError .none s) := by
  cases bytes with
  | nil => exact absurd rfl hne
  | cons b bs => simp only [exec, execCrc8Check, crc8Passes_iff hne]

/-- Settles O28: by whether the last byte is right. -/
theorem crc8CheckComparesTheLastByte : Obligations.Crc8CheckComparesTheLastByte := by
  refine fun s => ⟨fun bytes check => ?_, rfl⟩
  have hne : bytes ++ [check] ≠ [] := by simp
  simp only [exec_crc8Check hne, crc8_concat_eq_zero_iff, ← crc8_eq_foldl]
  split
  · exact ⟨s.draws, rfl⟩
  · exact ⟨s.draws + 1, rfl⟩

/-- `CRC8_CHECK` answers `OK` only to a sequence whose CRC, check byte included, is 0. -/
theorem crc8_eq_zero_of_ok {bytes : List Byte} (hne : bytes ≠ []) {s t : State} (h : exec (.crc8Check bytes) s = .next t)
    (hok : t.responses = s.responses ++ [⟨.ok, .none⟩]) : crc8 bytes = 0x00#8 := by
  rw [exec_crc8Check hne] at h
  obtain rfl := Host.Outcome.next.inj h
  by_contra hbad
  rw [if_neg hbad] at hok
  simp at hok

/-- Two sequences that differ in one byte have different CRCs (41_crc8_checker.md R104). -/
theorem crc8_replace_ne (before after : List Byte) {good bad : Byte} (hne : good ≠ bad) :
    crc8 (before ++ good :: after) ≠ crc8 (before ++ bad :: after) := by
  intro h
  simp only [crc8, crc8From_append] at h
  exact hne ((BitVec.xor_right_inj _).mp (crc8Update_eq_iff.mp (crc8From_injective after h)))

/-- Settles O29: the CRC of the whole was 0, and that of the corrupted sequence is another. -/
theorem singleByteCorruptionIsDetected : Obligations.SingleByteCorruptionIsDetected := by
  intro before after good bad s t hne h hok
  have hzero := crc8_eq_zero_of_ok (by simp) h hok
  have hbad : crc8 (before ++ bad :: after) ≠ 0x00#8 := hzero ▸ (crc8_replace_ne before after hne).symm
  exact ⟨_, (exec_crc8Check (by simp) s).trans (by rw [if_neg hbad]), rfl⟩

/-! ### A line held low -/

theorem crc8_zeros (n : Nat) : crc8 (List.replicate n 0x00#8) = 0x00#8 := by
  induction n with
  | zero => rfl
  | succ n ih => rw [List.replicate_succ', crc8_concat_eq_zero_iff, ih]

/-- At least the next `n` samples read low, and no other answer is queued (41_crc8_checker.md R106). -/
def HeldLow (n : Nat) (s : State) : Prop := ∃ m, n ≤ m ∧ s.env = .answers (List.replicate m false)

theorem HeldLow.mono {m n : Nat} {s : State} (h : HeldLow n s) (hle : m ≤ n) : HeldLow m s :=
  have ⟨k, hk, he⟩ := h
  ⟨k, hle.trans hk, he⟩

/-- A slot takes at most one sample, and it is low. -/
theorem slot_heldLow {n : Nat} {s : State} (h : HeldLow (n + 1) s) (w : Bool) :
    (slot w s).2 = false ∧ HeldLow n (slot w s).1 := by
  obtain ⟨m, hm, he⟩ := h
  obtain ⟨k, rfl⟩ : ∃ k, m = k + 1 := ⟨m - 1, by omega⟩
  obtain ⟨_, hs, _, hsample⟩ := slot_spec w s
  cases w with
  | false => exact ⟨rfl, k + 1, by omega, by rw [hs, he]; rfl⟩
  | true => exact ⟨hsample .slot _ false rfl (by rw [he]; rfl), k, by omega, by rw [hs, he]; rfl⟩

theorem slots_heldLow {n : Nat} (ws : List Bool) {s : State} (h : HeldLow (n + ws.length) s) :
    (slots ws s).2 = List.replicate ws.length false ∧ HeldLow n (slots ws s).1 := by
  induction ws generalizing s with
  | nil => exact ⟨rfl, h⟩
  | cons w ws ih =>
    obtain ⟨hlow, hrest⟩ := slot_heldLow (n := n + ws.length) h w
    obtain ⟨hlows, hend⟩ := ih hrest
    exact ⟨by rw [slots, hlow, hlows]; rfl, hend⟩

theorem xferByte_heldLow {n : Nat} {s : State} (h : HeldLow (n + 8) s) (v : Byte) :
    (xferByte v s).2 = 0x00#8 ∧ HeldLow n (xferByte v s).1 := by
  obtain ⟨hlow, hend⟩ := slots_heldLow (byteBits v) h
  exact ⟨congrArg byteOfBits hlow, hend⟩

theorem sendBytes_heldLow {n : Nat} (bs : List Byte) {s : State} (h : HeldLow (n + 8 * bs.length) s) :
    HeldLow n (sendBytes bs s) := by
  induction bs generalizing s with
  | nil => exact h
  | cons b bs ih => exact ih (xferByte_heldLow (n := n + 8 * bs.length) h b).2

theorem receiveBytes_heldLow {k : Nat} {s : State} (h : HeldLow (8 * k) s) :
    (receiveBytes k s).2 = List.replicate k 0x00#8 := by
  induction k generalizing s with
  | zero => rfl
  | succ k ih =>
    obtain ⟨hlow, hrest⟩ := xferByte_heldLow (n := 8 * k) h 0xFF#8
    rw [receiveBytes, hlow, ih hrest]
    rfl

/-- Nine bytes read low are a scratchpad of zeros, whose CRC is right (43_sensor_protocol.md R118). -/
theorem readNine_heldLow {u : State} (h : HeldLow 72 u) (k : ResultKind) (ok : Scratchpad → Result) :
    readNine k ok u = respond .ok (ok ⟨0, 0, 0, 0, 0, 0, 0, 0, 0⟩) (receiveBytes 9 u).1 := by
  have hread : (receiveBytes 9 u).2 = List.replicate 9 0x00#8 := receiveBytes_heldLow h
  rw [readNine, hread]
  exact if_pos (crc8_zeros 8)

theorem selectBytes_length_le (t : Target) : (selectBytes t).length ≤ 9 := by
  cases t with
  | broadcast => decide
  | address a => exact Nat.le_refl 9

/-- `READ_SCRATCHPAD` takes at most 152 samples after its reset: nine selection bytes, the command byte and nine bytes
read (41_crc8_checker.md R106). -/
theorem readScratchpad_heldLow {s : State} (h : Quiet s) {n : Nat} (hn : 152 ≤ n)
    (henv : s.env = .answers (true :: false :: List.replicate n false)) (target : Target) :
    ∃ t, exec (.readScratchpad target) s = .next t ∧
      t.responses = s.responses ++ [⟨.ok, .scratchpad ⟨0, 0, 0, 0, 0, 0, 0, 0, 0⟩⟩] := by
  have halive : BusAlive s := by rw [BusAlive, henv]; exact ⟨rfl, rfl⟩
  obtain ⟨hseen, hreset⟩ := resetPulse_alive h halive
  have hlow : HeldLow 152 (resetPulse s).1 := ⟨n, hn, by rw [hreset.env, henv]; rfl⟩
  obtain ⟨_, _, hsent⟩ := sendBytes_ran hreset.quiet (selectBytes target)
  have hcommand := (hreset.trans hsent).trans (xferByte_ran hsent.quiet 0xBE#8)
  have hsel := selectBytes_length_le target
  have hselected := sendBytes_heldLow (n := 72 + 8) (selectBytes target) (hlow.mono (by omega))
  have hread := (xferByte_heldLow hselected 0xBE#8).2
  refine ⟨_, guardWindow_quiet _ h.2 _, ?_⟩
  rw [addressed_eq, if_pos hseen, readNine_heldLow hread]
  exact ((hcommand.trans (receiveBytes_ran hcommand.quiet 9)).then_respond _ _).responses

/-- Settles O30: zero bytes have CRC 0, and a line held low reads as zero bytes. -/
theorem allZeroSequencesPass : Obligations.AllZeroSequencesPass := by
  refine fun n s => ⟨?_, ?_, fun target h hn henv => readScratchpad_heldLow h hn henv target⟩
  · exact congrArg (fun c => Host.Outcome.next (respond .ok (.crc c) s)) (crc8_zeros n)
  · rw [exec_crc8Check (by simp), if_pos (crc8_zeros _)]
    rfl

end Sys2Proof.Machine
end

section
/-! PROOF. The device search engine on any bus (42_device_search_engine.md R107 to R111): the three courses of a
`SEARCH`, and what each leaves in the search state. -/

namespace Sys2Proof.Machine

/-! ### `SEARCH_RESET`, and `SEARCH` when it is done -/

/-- Settles O31: the meaning of `SEARCH_RESET` is its effect. -/
theorem searchResetStartsAfresh : Obligations.SearchResetStartsAfresh := fun _ => rfl

/-- With `SEARCH_LD = DONE` a `SEARCH` fails at once (42_device_search_engine.md R109 step 1). -/
theorem exec_search_done {s : State} (hd : s.searchLd = 0x00#8) : exec .search s = .next (fail .done .found s) :=
  if_pos hd

/-- Settles O32: a failure draws one free value and adds its response. -/
theorem searchWhenDoneTouchesNothing : Obligations.SearchWhenDoneTouchesNothing :=
  fun _ hd => ⟨_, _, _, exec_search_done hd⟩

/-- A `SEARCH` that is not done opens with a reset (42_device_search_engine.md R109 step 1). -/
theorem exec_search_notDone {s : State} (h : Quiet s) (hd : s.searchLd ≠ 0x00#8) : exec .search s =
    .next (if (resetPulse s).2 then searchRound (resetPulse s).1 else fail .busFault .found (resetPulse s).1) :=
  (if_neg hd).trans (guardWindow_quiet _ h.2 _)

/-! ### The three courses of a `SEARCH` -/

/-- The deepest recorded position of a walk from position 1 is 0 or one of the positions visited. -/
theorem deepestZero_le_length (vs : List Visit) : deepestZero 0 1 vs ≤ vs.length := by
  rcases deepestZero_cases vs 0 1 with h | ⟨k, hk, h, _⟩
  · omega
  · omega

/-- `SEARCH` after its reset: the walk met the (1,1) pair, or it visited all 64 positions
(42_device_search_engine.md R109, R110). -/
theorem searchRound_cases {s : State} (h : Quiet s) :
    (∃ got vs addr more, vs.length < 64 ∧ WalksFrom (comparisonValue s.searchLd) s.searchRom 1 vs ∧
      Ran s (searchRound s) (byteEvents 0xF0#8 got ++ visitEvents vs ++ [.slot true true, .slot true true])
        [⟨.protocolDesync, .found addr more⟩] ∧ KeepsSearch s (searchRound s)) ∨
    (∃ got vs, vs.length = 64 ∧ WalksFrom (comparisonValue s.searchLd) s.searchRom 1 vs ∧
      Ran s (searchRound s) (byteEvents 0xF0#8 got ++ visitEvents vs)
        [⟨.ok, .found (searchRound s).searchRom (decide (deepestZero 0 1 vs ≠ 0))⟩] ∧
      (searchRound s).searchLd.toNat = deepestZero 0 1 vs ∧
      ∀ k (h : k < vs.length), (searchRound s).searchRom.getLsbD k = vs[k].d) := by
  have hx := xferByte_ran h 0xF0#8
  obtain ⟨hk, ⟨hn, vs, hl, hv, hr⟩ | ⟨vs, hl, hv, hs, hr⟩⟩ :=
    searchWalk_cases 64 hx.quiet 1 (comparisonValue s.searchLd) s.searchRom 0 0#64
  · simp only [searchRound, hn, List.append_assoc]
    exact .inl ⟨_, vs, _, _, hl, hv, (hx.trans hr).then_fail .protocolDesync .found,
      (xferByte_keepsSearch _ s).trans hk⟩
  · refine .inr ⟨(xferByte 0xF0#8 s).2, vs, hl, hv, ?_⟩
    simp only [searchRound, hs]
    refine ⟨((hx.trans hr).withSearch _ _).then_respond _ _, ?_, fun k hk => ?_⟩
    · have := deepestZero_le_length vs
      simp only [respond_searchLd, BitVec.toNat_ofNat]
      omega
    · simp only [respond_searchRom]
      rw [addressAfter_getLsbD vs _ 1 (le_refl 1) k (by omega)]
      exact dif_pos ⟨Nat.zero_le k, hk⟩

/-- Settles O33: the courses of the reset, and after it those of the walk. -/
theorem searchWalksTheTree : Obligations.SearchWalksTheTree := by
  intro s h hd
  refine ⟨_, exec_search_notDone h hd, ?_⟩
  obtain ⟨⟨hld, hrom⟩, ⟨hf, evs, he, hr⟩ | ⟨ht, hr⟩⟩ := resetPulse_cases h
  · simp only [hf, Bool.false_eq_true, if_false]
    exact .inl ⟨evs, _, _, he, hr.then_fail .busFault .found, hld, hrom⟩
  · simp only [ht, if_true]
    rw [← hld, ← hrom]
    obtain ⟨got, vs, addr, more, hl, hv, hw, hk⟩ | ⟨got, vs, hl, hv, hw, hend⟩ := searchRound_cases hr.quiet
    · refine .inr (.inl ⟨got, vs, addr, more, hl, hv, ?_, KeepsSearch.trans ⟨hld, hrom⟩ hk⟩)
      simpa only [List.append_assoc, List.nil_append] using hr.trans hw
    · refine .inr (.inr ⟨got, vs, hl, hv, ?_, hend⟩)
      simpa only [List.append_assoc, List.nil_append] using hr.trans hw

/-- Settles O34: a `SEARCH` that does not keep the search state answers `OK`. -/
theorem failedSearchKeepsTheSearchState : Obligations.FailedSearchKeepsTheSearchState := by
  intro s t r h he hr hne
  refine (exec_completed h he).search.resolve_right ?_
  rintro ⟨_, _, hi | ⟨_, result, hok⟩⟩
  · cases hi
  · obtain rfl : r = ⟨.ok, result⟩ := by simpa [hr] using hok
    exact hne rfl

/-- The search state that a `SEARCH` with `OK` leaves: the address returned, and `SEARCH_LD` not `DONE` exactly when
`has_more` is 1 (42_device_search_engine.md R111). -/
theorem search_ok_searchState {s t : State} {addr : Address} {more : Bool} (h : Quiet s) (he : exec .search s = .next t)
    (hr : t.responses = s.responses ++ [⟨.ok, .found addr more⟩]) :
    t.searchRom = addr ∧ (more = true ↔ t.searchLd ≠ 0x00#8) := by
  by_cases hd : s.searchLd = 0x00#8
  · obtain rfl := Host.Outcome.next.inj ((exec_search_done hd).symm.trans he)
    simp at hr
  · obtain ⟨t', he', hcourse⟩ := searchWalksTheTree s h hd
    obtain rfl := Host.Outcome.next.inj (he'.symm.trans he)
    obtain ⟨_, _, _, _, hw, _⟩ | ⟨_, _, _, _, _, _, hw, _⟩ | ⟨_, vs, _, _, hw, hld, _⟩ := hcourse
    · simpa [hr] using hw.responses
    · simpa [hr] using hw.responses
    · obtain ⟨rfl, rfl⟩ : addr = t'.searchRom ∧ more = decide (deepestZero 0 1 vs ≠ 0) := by
        simpa [hr] using hw.responses
      simp [← hld, BitVec.toNat_eq]

/-- Settles O35: with `has_more = 0` the next `SEARCH` is one that is done. -/
theorem hasMoreTellsWhetherTheNextSearchIsDone : Obligations.HasMoreTellsWhetherTheNextSearchIsDone := by
  intro s t addr more h he hr
  obtain ⟨hrom, hmore⟩ := search_ok_searchState h he hr
  refine ⟨hrom, hmore, fun hlast => ?_⟩
  have hd : t.searchLd = 0x00#8 := by simpa [hlast] using hmore
  exact ⟨_, _, exec_search_done hd, rfl, rfl, rfl, fail_keepsSearch _ _ _⟩

end Sys2Proof.Machine
end

section
/-! PROOF. The order of an enumeration (42_device_search_engine.md R112), on addresses alone: where two addresses part,
which address a search is to find, and what it leaves for the next. -/

namespace Sys2Proof.Machine

/-! ### The order of the addresses -/

/-- The two addresses have the same first `k` bits on the wire. -/
abbrev AgreeBelow (k : Nat) (a b : Address) : Prop := ∀ j, j < k → a.getLsbD j = b.getLsbD j

/-- `a` comes before `b` in the order of 42_device_search_engine.md R112, and they part at bit `k`. -/
def ForksAt (k : Nat) (a b : Address) : Prop := a.getLsbD k = false ∧ b.getLsbD k = true ∧ AgreeBelow k a b

theorem ForksAt.lt {k : Nat} {a b : Address} (h : ForksAt k a b) : k < 64 := BitVec.lt_of_getLsbD h.2.1

theorem wireBefore_iff {a b : Address} : WireBefore a b ↔ ∃ k, ForksAt k a b :=
  ⟨fun ⟨k, _, h⟩ => ⟨k, h⟩, fun ⟨k, h⟩ => ⟨k, h.lt, h⟩⟩

theorem ForksAt.irrefl {k : Nat} {a : Address} : ¬ ForksAt k a a := fun ⟨h0, h1, _⟩ => nomatch h0.symm.trans h1

/-- Of three addresses in order, the outer two part where the first pair of neighbours does. -/
theorem ForksAt.trans {k l : Nat} {a b c : Address} (hab : ForksAt k a b) (hbc : ForksAt l b c) :
    ForksAt (min k l) a c := by
  obtain ⟨ha, hb, hab⟩ := hab
  obtain ⟨hb', hc, hbc⟩ := hbc
  rcases lt_trichotomy k l with h | rfl | h
  · rw [min_eq_left h.le]
    exact ⟨ha, (hbc k h).symm.trans hb, fun j hj => (hab j hj).trans (hbc j (hj.trans h))⟩
  · cases hb.symm.trans hb'
  · rw [min_eq_right h.le]
    exact ⟨(hab l h).trans hb', hc, fun j hj => (hab j (hj.trans h)).trans (hbc j hj)⟩

theorem WireBefore.trans {a b c : Address} (hab : WireBefore a b) (hbc : WireBefore b c) : WireBefore a c := by
  obtain ⟨k, hk⟩ := wireBefore_iff.mp hab
  obtain ⟨l, hl⟩ := wireBefore_iff.mp hbc
  exact wireBefore_iff.mpr ⟨_, hk.trans hl⟩

theorem ForksAt.asymm {k l : Nat} {a b : Address} (hab : ForksAt k a b) : ¬ ForksAt l b a :=
  fun hba => (hab.trans hba).irrefl

/-- Two addresses part at one bit. -/
theorem ForksAt.unique {k l : Nat} {a b : Address} (h : ForksAt k a b) (h' : ForksAt l a b) : k = l := by
  obtain ⟨ha, hb, hbelow⟩ := h
  obtain ⟨ha', hb', hbelow'⟩ := h'
  rcases lt_trichotomy k l with hlt | heq | hlt
  · cases (ha.symm.trans (hbelow' k hlt)).trans hb
  · exact heq
  · cases (ha'.symm.trans (hbelow l hlt)).trans hb'

/-! ### The next address of an enumeration -/

/-- `a` is the address that a search with comparison value `ldc` after `prev` is to find among `roms`: it replays `prev`
before position `ldc`, has a 1 there (no position is 0), and every address before it parts from it no later
(42_device_search_engine.md R108). -/
structure NextFound (roms : List Address) (ldc : Nat) (prev a : Address) : Prop where
  mem : a ∈ roms
  replay : ∀ j, j + 1 < ldc → prev.getLsbD j = a.getLsbD j
  turn : ∀ j, j + 1 = ldc → a.getLsbD j = true
  first : ∀ r ∈ roms, ∀ k, ForksAt k r a → k < ldc

/-- What a search that found `a` among `roms` leaves in `SEARCH_LD`: the last position at which a later address parts
from `a`, 0 if there is none (42_device_search_engine.md R109). -/
structure LastFork (roms : List Address) (a : Address) (ld : Nat) : Prop where
  reached : ∀ j, j + 1 = ld → ∃ r ∈ roms, ForksAt j a r
  last : ∀ r ∈ roms, ∀ k, ForksAt k a r → k < ld

/-- No address of `roms` lies between `a` and `b`. -/
def Neighbours (roms : List Address) (a b : Address) : Prop :=
  ∀ r ∈ roms, (r = a ∨ WireBefore r a) ∨ (r = b ∨ WireBefore b r)

section
variable {roms : List Address} {a b prev : Address} {q : Nat}

/-- An address does not come before one that is not after it. -/
theorem not_forksAt_of_le {r : Address} {k : Nat} (h : r = a ∨ WireBefore r a) : ¬ ForksAt k a r := by
  rcases h with rfl | hbefore
  · exact ForksAt.irrefl
  · obtain ⟨l, hl⟩ := wireBefore_iff.mp hbefore
    exact hl.asymm

/-- From `FRESH` a search finds the first address. -/
theorem nextFound_of_first (hmem : a ∈ roms) (h : ∀ r ∈ roms, r = a ∨ WireBefore a r) :
    NextFound roms 0 prev a where
  mem := hmem
  replay := fun _ hj => absurd hj (Nat.not_lt_zero _)
  turn := nofun
  first := fun r hr _ hk => absurd hk (not_forksAt_of_le ((h r hr).imp_left Eq.symm))

/-- After the last address nothing is recorded. -/
theorem lastFork_of_last (h : ∀ r ∈ roms, r = a ∨ WireBefore r a) : LastFork roms a 0 where
  reached := nofun
  last := fun r hr _ hk => absurd hk (not_forksAt_of_le (h r hr))

/-- A search that finds `a` records the position at which its neighbour `b` parts from it. -/
theorem ForksAt.lastFork (hq : ForksAt q a b) (hb : b ∈ roms) (hn : Neighbours roms a b) :
    LastFork roms a (q + 1) where
  reached := fun _ hj => ⟨b, hb, Nat.succ.inj hj ▸ hq⟩
  last := fun r hr k hk => by
    rcases hn r hr with hle | rfl | hafter
    · exact absurd hk (not_forksAt_of_le hle)
    · exact Nat.lt_succ_of_le (hk.unique hq).le
    · obtain ⟨l, hl⟩ := wireBefore_iff.mp hafter
      exact Nat.lt_succ_of_le ((hk.unique (hq.trans hl)).trans_le (min_le_left q l))

/-- The search after it finds `b`. -/
theorem ForksAt.nextFound (hq : ForksAt q a b) (hb : b ∈ roms) (hn : Neighbours roms a b) :
    NextFound roms (q + 1) a b where
  mem := hb
  replay := fun j hj => hq.2.2 j (Nat.lt_of_succ_lt_succ hj)
  turn := fun _ hj => Nat.succ.inj hj ▸ hq.2.1
  first := fun r hr k hk => by
    rcases hn r hr with (rfl | hbefore) | hge
    · exact Nat.lt_succ_of_le (hk.unique hq).le
    · obtain ⟨l, hl⟩ := wireBefore_iff.mp hbefore
      exact Nat.lt_succ_of_le ((hk.unique (hl.trans hq)).trans_le (min_le_right l q))
    · exact absurd hk (not_forksAt_of_le (hge.imp_left Eq.symm))

end

/-- `a`, then `rest` in order, are the addresses of `roms` that an enumeration has still to return. -/
structure Remaining (roms : List Address) (a : Address) (rest : List Address) : Prop where
  subset : a :: rest ⊆ roms
  sorted : (a :: rest).Pairwise WireBefore
  cover : ∀ r ∈ roms, r ∈ a :: rest ∨ WireBefore r a

section
variable {roms rest : List Address} {a b prev : Address}

/-- At the start all the addresses remain, and a search from `FRESH` finds the first. -/
theorem remaining_of_perm (hp : (a :: rest).Perm roms) (hs : (a :: rest).Pairwise WireBefore) :
    Remaining roms a rest ∧ NextFound roms 0 prev a :=
  ⟨⟨hp.subset, hs, fun _ hr => .inl (hp.symm.subset hr)⟩,
    nextFound_of_first (hp.subset List.mem_cons_self) fun _ hr =>
      (List.mem_cons.mp (hp.symm.subset hr)).imp_right (List.rel_of_pairwise_cons hs)⟩

theorem Remaining.lastFork (h : Remaining roms a []) : LastFork roms a 0 :=
  lastFork_of_last fun r hr => (h.cover r hr).imp_left List.mem_singleton.mp

theorem Remaining.before (h : Remaining roms a (b :: rest)) : WireBefore a b :=
  List.rel_of_pairwise_cons h.sorted List.mem_cons_self

theorem Remaining.tail (h : Remaining roms a (b :: rest)) : Remaining roms b rest where
  subset := List.subset_of_cons_subset h.subset
  sorted := h.sorted.of_cons
  cover := fun r hr => by
    rcases h.cover r hr with hmem | hbefore
    · exact (List.mem_cons.mp hmem).elim (fun hra => .inr (hra ▸ h.before)) .inl
    · exact .inr (hbefore.trans h.before)

theorem Remaining.neighbours (h : Remaining roms a (b :: rest)) : Neighbours roms a b := fun r hr => by
  rcases h.cover r hr with hmem | hbefore
  · rcases List.mem_cons.mp hmem with hra | hmem
    · exact .inl (.inl hra)
    · exact .inr ((List.mem_cons.mp hmem).imp_right (List.rel_of_pairwise_cons h.sorted.of_cons))
  · exact .inl (.inr hbefore)

end

end Sys2Proof.Machine
end

section
/-! PROOF. The walk of a `SEARCH` on the reference bus (20_memory.md R39, R40): each visit senses the devices that agree
with the bits written so far, so the walk spells out the address that it is to find. -/

namespace Sys2Proof.Machine

/-! ### What a visit senses on the reference bus -/

/-- The pair `x`, `y` read once the first `i` bits of `a` were written: each is the AND of what the devices drive whose
addresses agree with those bits (20_memory.md R40). -/
structure Senses (roms : List Address) (a : Address) (i : Nat) (x y : Bool) : Prop where
  trueBit : x = true ↔ ∀ r ∈ roms, AgreeBelow i r a → r.getLsbD i = true
  complement : y = true ↔ ∀ r ∈ roms, AgreeBelow i r a → r.getLsbD i = false

section
variable {roms : List Address} {a prev : Address} {i ldc : Nat} {v : Visit} {x y : Bool}

/-- While some device has the address `a`, no (1,1) pair is read. -/
theorem Senses.not_both (h : Senses roms a i x y) (hmem : a ∈ roms) : ¬ (x = true ∧ y = true) := by
  rintro ⟨hx, hy⟩
  cases (h.trueBit.mp hx a hmem fun _ _ => rfl).symm.trans (h.complement.mp hy a hmem fun _ _ => rfl)

/-- If not every address that agrees so far has a 1 next, one has a 0. -/
theorem Senses.exists_zero (h : Senses roms a i x y) (hx : x = false) :
    ∃ r ∈ roms, AgreeBelow i r a ∧ r.getLsbD i = false := by
  have hnot := (not_congr h.trueBit).mp (by simp [hx])
  push Not at hnot
  simpa using hnot

/-- If not every address that agrees so far has a 0 next, one has a 1. -/
theorem Senses.exists_one (h : Senses roms a i x y) (hy : y = false) :
    ∃ r ∈ roms, AgreeBelow i r a ∧ r.getLsbD i = true := by
  have hnot := (not_congr h.complement).mp (by simp [hy])
  push Not at hnot
  simpa using hnot

/-- Past the comparison position the address that the search is to find has a 0 at every (0,0) pair: an address with a 0
there would come before it. -/
theorem NextFound.eq_false_of_pair (hn : NextFound roms ldc prev a) (h : Senses roms a i x y) (hx : x = false)
    (hi : ldc ≤ i) : a.getLsbD i = false := by
  obtain ⟨r, hr, hagree, hzero⟩ := h.exists_zero hx
  by_contra hone
  exact absurd (hn.first r hr i ⟨hzero, by simpa using hone, hagree⟩) (by omega)

/-- The chosen bit is that of the address that the search is to find. -/
theorem NextFound.chosenBit_eq (hn : NextFound roms ldc prev a) (h : Senses roms a i v.a v.b) :
    chosenBit ldc prev (i + 1) v = a.getLsbD i := by
  have hboth := h.not_both hn.mem
  unfold chosenBit
  split
  case isTrue hne =>
    cases hva : v.a with
    | true => exact (h.trueBit.mp hva a hn.mem fun _ _ => rfl).symm
    | false => exact (h.complement.mp (by simpa [hva] using hne) a hn.mem fun _ _ => rfl).symm
  case isFalse heq =>
    have hva : v.a = false := by
      by_contra ha
      exact hboth ⟨by simpa using ha, by simpa [ha] using heq⟩
    split
    case isTrue hlt => exact hn.replay i hlt
    case isFalse hge =>
      by_cases hturn : i + 1 = ldc
      · rw [hn.turn i hturn, decide_eq_true hturn]
      · rw [hn.eq_false_of_pair h hva (by omega), decide_eq_false hturn]

/-- The visit is a recorded discrepancy: a (0,0) pair at which the bit written was 0
(42_device_search_engine.md R108). -/
abbrev Visit.Records (v : Visit) : Prop := v.a = false ∧ v.b = false ∧ v.d = false

/-- A visit that wrote the bit of `a` records its position when some address parts from `a` there. -/
theorem Senses.records_iff (h : Senses roms a i v.a v.b) (hmem : a ∈ roms) (hd : v.d = a.getLsbD i) :
    v.Records ↔ ∃ r ∈ roms, ForksAt i a r := by
  constructor
  · rintro ⟨_, hb, hzero⟩
    obtain ⟨r, hr, hagree, hone⟩ := h.exists_one hb
    exact ⟨r, hr, hd.symm.trans hzero, hone, fun j hj => (hagree j hj).symm⟩
  · rintro ⟨r, hr, hzero, hone, hagree⟩
    refine ⟨?_, ?_, hd.trans hzero⟩
    · by_contra ha
      cases (h.trueBit.mp (by simpa using ha) a hmem fun _ _ => rfl).symm.trans hzero
    · by_contra hb
      cases (h.complement.mp (by simpa using hb) r hr fun j hj => (hagree j hj).symm).symm.trans hone

end

/-! ### The walk on the reference bus -/

/-- The phase of the reference bus once `i` bits of a search were written (20_memory.md R40). -/
def walkPhase (i : Nat) : Phase := if i < 64 then .searching (i + 1) .trueBit else .functionCommand []

/-- The devices once the first `i` bits of `a` were written: those that agree with them take part. -/
def walkDevices (a : Address) (i : Nat) (devices : List Device) : List Device :=
  devices.map fun d => { d with active := decide (AgreeBelow i d.rom a) }

/-- The reference bus once the first `i` bits of `a` were written in a search. -/
def walkBus (bus : RefBus) (a : Address) (i : Nat) : RefBus :=
  { bus with devices := walkDevices a i bus.devices, phase := walkPhase i }

@[simp] theorem walkDevices_rom (a : Address) (i : Nat) (devices : List Device) :
    (walkDevices a i devices).map Device.rom = devices.map Device.rom := by
  simp [walkDevices]

/-- A reset lets every device take part, with no bit written yet (20_memory.md R39). -/
theorem activateAll_eq (a : Address) (devices : List Device) : activateAll devices = walkDevices a 0 devices := by
  refine List.map_congr_left fun d _ => ?_
  rw [decide_eq_true fun _ hj => absurd hj (Nat.not_lt_zero _)]

/-- Writing the next bit of `a` leaves the devices that agree with it too (20_memory.md R40). -/
theorem keepActive_walkDevices (a : Address) (i : Nat) (devices : List Device) :
    keepActive (fun d => addressBit d.rom (i + 1) == a.getLsbD i) (walkDevices a i devices) =
      walkDevices a (i + 1) devices := by
  simp only [keepActive, walkDevices, List.map_map]
  refine List.map_congr_left fun d _ => ?_
  simp only [Function.comp, addressBit, Nat.add_sub_cancel]
  congr 1
  rw [Bool.eq_iff_iff, Bool.and_eq_true, decide_eq_true_iff, decide_eq_true_iff, beq_iff_eq]
  exact ⟨fun ⟨hbelow, hi⟩ j hj => (Nat.lt_succ_iff_lt_or_eq.mp hj).elim (hbelow j) (· ▸ hi),
    fun h => ⟨fun j hj => h j (Nat.lt_succ_of_lt hj), h i (Nat.lt_succ_self i)⟩⟩

/-- What the devices drive together, as a statement about their addresses. -/
theorem wiredAnd_walkDevices (a : Address) (i : Nat) (devices : List Device) (f : Address → Bool) :
    wiredAnd (walkDevices a i devices) (fun d => f d.rom) = true ↔
      ∀ r ∈ devices.map Device.rom, AgreeBelow i r a → f r = true := by
  simp only [List.forall_mem_map, wiredAnd, walkDevices, List.all_map, List.all_eq_true, Function.comp, Bool.or_eq_true,
    Bool.not_eq_true', decide_eq_false_iff_not, ← imp_iff_not_or]

/-- The reference bus after a slot (20_memory.md R40). -/
theorem afterEvent_slot (p : Params) (bus : RefBus) (w r : Bool) :
    Environment.afterEvent p (.reference bus) (.slot w r) = .reference (RefBus.slot p w bus) := by
  cases w <;> rfl

/-- A read slot on the reference bus gives the answer that the bus has. -/
theorem eq_of_allows_slot {bus : RefBus} {x y : Bool} (h : Environment.Allows (.reference bus) (.slot true x))
    (ha : RefBus.answer bus .slot = some y) : x = y :=
  h.2 _ _ _ rfl ha

section
variable {bus : RefBus} {a prev : Address} {i ldc : Nat} {p : Params} {v : Visit} {vs : List Visit} {x y : Bool}

/-- The pair read at position `i + 1` of a search. -/
theorem senses_of_allowsAll (hs : bus.short = false) (hi : i < 64)
    (h : Environment.AllowsAll p (.reference (walkBus bus a i)) [.slot true x, .slot true y]) :
    Senses (bus.devices.map Device.rom) a i x y := by
  obtain ⟨hread, hreadComplement, _⟩ := h
  have hphase : walkPhase i = .searching (i + 1) .trueBit := if_pos hi
  have hx := eq_of_allows_slot hread (y := wiredAnd (walkDevices a i bus.devices) fun d => d.rom.getLsbD i)
    (by simp only [RefBus.answer, walkBus, hs, slotAnswer, hphase]; rfl)
  have hy := eq_of_allows_slot (bus := { walkBus bus a i with phase := .searching (i + 1) .complementBit }) (x := y)
    (y := wiredAnd (walkDevices a i bus.devices) fun d => !d.rom.getLsbD i)
    (by simpa only [afterEvent_slot, RefBus.slot, walkBus, hphase] using hreadComplement)
    (by simp only [RefBus.answer, walkBus, hs, slotAnswer]; rfl)
  rw [hx, hy]
  refine ⟨wiredAnd_walkDevices a i bus.devices fun r => r.getLsbD i, ?_⟩
  simpa only [Bool.not_eq_true'] using wiredAnd_walkDevices a i bus.devices fun r => !r.getLsbD i

/-- The bus after a visit that wrote the next bit of `a`. -/
theorem afterEvents_visit (hi : i < 64) (hd : v.d = a.getLsbD i) :
    Environment.afterEvents p (.reference (walkBus bus a i)) v.events = .reference (walkBus bus a (i + 1)) := by
  have hkeep := keepActive_walkDevices a i bus.devices
  rw [← hd] at hkeep
  simp only [Visit.events, Environment.afterEvents, afterEvent_slot, RefBus.slot, walkBus, walkPhase, if_pos hi, hkeep]

/-- On the reference bus a walk writes the bits of the address that it is to find, and records the positions at which
some address parts from it. -/
theorem walk_reference (hs : bus.short = false) (hn : NextFound (bus.devices.map Device.rom) ldc prev a)
    (hi : i + vs.length ≤ 64) (hw : WalksFrom ldc prev (i + 1) vs)
    (ha : Environment.AllowsAll p (.reference (walkBus bus a i)) (visitEvents vs)) :
    Environment.afterEvents p (.reference (walkBus bus a i)) (visitEvents vs) =
      .reference (walkBus bus a (i + vs.length)) ∧
    ∀ k (h : k < vs.length), vs[k].d = a.getLsbD (i + k) ∧
      (vs[k].Records ↔ ∃ r ∈ bus.devices.map Device.rom, ForksAt (i + k) a r) := by
  induction vs generalizing i with
  | nil => exact ⟨rfl, fun k h => absurd h (Nat.not_lt_zero k)⟩
  | cons v vs ih =>
    rw [List.length_cons] at hi
    obtain ⟨_, hchosen, hw⟩ := hw
    obtain ⟨hv, hvs⟩ := (allowsAll_append ..).mp ha
    have hsense := senses_of_allowsAll hs (by omega)
      ((allowsAll_append p _ [.slot true v.a, .slot true v.b] [.slot v.d v.r]).mp hv).1
    have hd : v.d = a.getLsbD i := hchosen.trans (hn.chosenBit_eq hsense)
    have hafter := afterEvents_visit (bus := bus) (p := p) (by omega) hd
    rw [hafter] at hvs
    obtain ⟨hend, hrest⟩ := ih (by omega) hw hvs
    refine ⟨?_, fun k hk => ?_⟩
    · rw [visitEvents, afterEvents_append, hafter, hend, List.length_cons, Nat.add_right_comm, Nat.add_assoc]
    · cases k with
      | zero => exact ⟨hd, hsense.records_iff hn.mem hd⟩
      | succ k =>
        simpa only [List.getElem_cons_succ, Nat.add_right_comm, Nat.add_assoc] using
          hrest k (Nat.lt_of_succ_lt_succ hk)

end

/-! ### What the walk records -/

theorem deepestZero_of_none {vs : List Visit} (h : ∀ v ∈ vs, ¬ v.Records) (lz p : Nat) :
    deepestZero lz p vs = lz := by
  induction vs generalizing p with
  | nil => rfl
  | cons v vs ih =>
    obtain ⟨hv, hvs⟩ := List.forall_mem_cons.mp h
    rw [deepestZero, if_neg hv, ih hvs]

theorem deepestZero_of_last {vs : List Visit} {q : Nat} (hq : q < vs.length) (hrec : vs[q].Records)
    (hlast : ∀ k (h : k < vs.length), vs[k].Records → k ≤ q) (lz p : Nat) : deepestZero lz p vs = p + q := by
  induction vs generalizing q lz p with
  | nil => exact absurd hq (Nat.not_lt_zero q)
  | cons v vs ih =>
    cases q with
    | zero =>
      have hnone : ∀ w ∈ vs, ¬ w.Records := by
        intro w hw hr
        obtain ⟨k, hk, rfl⟩ := List.getElem_of_mem hw
        exact absurd (hlast (k + 1) (Nat.succ_lt_succ hk) hr) (Nat.not_succ_le_zero k)
      have hrec : v.Records := hrec
      rw [deepestZero, if_pos hrec, deepestZero_of_none hnone, Nat.add_zero]
    | succ q =>
      rw [deepestZero, ih (Nat.lt_of_succ_lt_succ hq) hrec
        fun k hk hr => Nat.le_of_succ_le_succ (hlast (k + 1) (Nat.succ_lt_succ hk) hr)]
      omega

/-- A complete walk that records where some address parts from `a` ends with the last such position. -/
theorem LastFork.deepestZero_eq {roms : List Address} {a : Address} {ld : Nat} (h : LastFork roms a ld)
    {vs : List Visit} (hl : vs.length = 64)
    (hrec : ∀ k (h : k < vs.length), vs[k].Records ↔ ∃ r ∈ roms, ForksAt k a r) :
    deepestZero 0 1 vs = ld := by
  have hlt : ∀ k (h : k < vs.length), vs[k].Records → k < ld := fun k hk hr =>
    have ⟨r, hmem, hfork⟩ := (hrec k hk).mp hr
    h.last r hmem k hfork
  cases ld with
  | zero =>
    refine deepestZero_of_none (fun v hv hr => ?_) 0 1
    obtain ⟨k, hk, rfl⟩ := List.getElem_of_mem hv
    exact absurd (hlt k hk hr) (Nat.not_lt_zero k)
  | succ q =>
    obtain ⟨r, hmem, hfork⟩ := h.reached q rfl
    have hq : q < vs.length := hl ▸ hfork.lt
    rw [deepestZero_of_last hq ((hrec q hq).mpr ⟨r, hmem, hfork⟩) fun k hk hr => Nat.le_of_lt_succ (hlt k hk hr),
      Nat.add_comm]

end Sys2Proof.Machine
end

section
/-! PROOF. Enumeration on the reference bus (42_device_search_engine.md R112, R113): each search finds the next address
and hands on to the one after it. -/

namespace Sys2Proof.Machine

/-! ### `SEARCH` on the reference bus -/

/-- The machine is on a reference bus that is not shorted, whose devices have the addresses `roms`. -/
def OnBus (roms : List Address) (s : State) : Prop :=
  ∃ bus, s.env = .reference bus ∧ bus.short = false ∧ bus.devices.map Device.rom = roms

/-- A reference bus with a device on it answers the reset (20_memory.md R39). -/
theorem OnBus.busAlive {roms : List Address} {s : State} (h : OnBus roms s) (hne : roms ≠ []) : BusAlive s := by
  obtain ⟨bus, henv, hs, rfl⟩ := h
  have hdev : bus.devices.isEmpty = false := by simpa using hne
  rw [BusAlive, henv]
  simp [Environment.answerTo, Environment.afterSample, RefBus.answer, RefBus.after, hs, hdev]

/-- The reset and the search directive bring every device to position 1 (20_memory.md R39, R40). -/
theorem afterEvents_directive (p : Params) (bus : RefBus) (a : Address) (got : Byte) :
    Environment.afterEvents p (.reference bus) (resetOk ++ byteEvents 0xF0#8 got) = .reference (walkBus bus a 0) := by
  rw [walkBus, ← activateAll_eq]
  rfl

theorem allowsAll_directive {p : Params} {bus : RefBus} {got : Byte} {evs : List Event} (a : Address)
    (h : Environment.AllowsAll p (.reference bus) (resetOk ++ byteEvents 0xF0#8 got ++ evs)) :
    Environment.AllowsAll p (.reference (walkBus bus a 0)) evs := by
  rw [allowsAll_append, afterEvents_directive p bus a] at h
  exact h.2

/-- A walk that is to find the address of a device does not meet the (1,1) pair. -/
theorem not_allowsAll_desync {p : Params} {bus : RefBus} {a prev : Address} {ldc : Nat} {vs : List Visit}
    (hs : bus.short = false) (hn : NextFound (bus.devices.map Device.rom) ldc prev a) (hl : vs.length < 64)
    (hw : WalksFrom ldc prev 1 vs) :
    ¬ Environment.AllowsAll p (.reference (walkBus bus a 0))
      (visitEvents vs ++ [.slot true true, .slot true true]) := by
  intro h
  obtain ⟨hvisits, hpair⟩ := (allowsAll_append ..).mp h
  obtain ⟨hend, _⟩ := walk_reference hs hn (by omega) hw hvisits
  rw [hend] at hpair
  exact (senses_of_allowsAll hs (by omega) hpair).not_both hn.mem ⟨rfl, rfl⟩

/-- On the reference bus a `SEARCH` returns the address that it is to find, and leaves the last fork in `SEARCH_LD`
(42_device_search_engine.md R112). -/
theorem search_onBus {roms : List Address} {s : State} {a : Address} {ld : Nat} (h : Quiet s) (hbus : OnBus roms s)
    (hd : s.searchLd ≠ 0x00#8) (hn : NextFound roms (comparisonValue s.searchLd) s.searchRom a)
    (hf : LastFork roms a ld) :
    ∃ t, exec .search s = .next t ∧ Quiet t ∧ OnBus roms t ∧ t.searchRom = a ∧ t.searchLd.toNat = ld ∧
      t.responses = s.responses ++ [⟨.ok, .found a (decide (ld ≠ 0))⟩] := by
  obtain ⟨t, he, hcourse⟩ := searchWalksTheTree s h hd
  have halive := hbus.busAlive (List.ne_nil_of_mem hn.mem)
  obtain ⟨bus, henv, hs, rfl⟩ := hbus
  obtain ⟨evs, _, _, hfailed, hr, _⟩ | ⟨got, vs, _, _, hl, hw, hr, _⟩ | ⟨got, vs, hl, hw, hr, hld, hrom⟩ := hcourse
  · exact absurd hr.allowed (halive.not_allowsAll hfailed)
  · have hallow := hr.allowed
    rw [henv, List.append_assoc (resetOk ++ _)] at hallow
    exact absurd (allowsAll_directive a hallow) (not_allowsAll_desync hs hn hl hw)
  · have hallow := hr.allowed
    rw [henv] at hallow
    obtain ⟨hend, hvisits⟩ := walk_reference hs hn (by omega) hw (allowsAll_directive a hallow)
    simp only [Nat.zero_add] at hvisits
    have hdeep := hf.deepestZero_eq hl fun k hk => (hvisits k hk).2
    have hfound : t.searchRom = a := BitVec.eq_of_getLsbD_eq fun k hk => by
      rw [hrom k (hl ▸ hk), (hvisits k (hl ▸ hk)).1]
    have henv' : t.env = .reference (walkBus bus a (0 + vs.length)) := by
      rw [hr.env, henv, afterEvents_append, afterEvents_directive s.cfg bus a, hend]
    refine ⟨t, he, hr.quiet, ⟨_, henv', hs, walkDevices_rom ..⟩, hfound, hld.trans hdeep, ?_⟩
    rw [hr.responses, hfound, hdeep]

/-! ### Enumeration -/

/-- A legal position counts as itself in the next search (42_device_search_engine.md R109). -/
theorem comparisonValue_of_le {ld : Byte} (h : ld.toNat ≤ 64) : comparisonValue ld = ld.toNat :=
  if_neg fun hf => absurd h (by simp [hf])

/-- The responses of an enumeration that returns `order`: `has_more` is 1 for all but the last
(42_device_search_engine.md R112). -/
def foundInOrder (order : List Address) : List Response :=
  order.mapIdx fun k a => ⟨.ok, .found a (decide (k + 1 < order.length))⟩

theorem foundInOrder_cons_cons (a b : Address) (rest : List Address) :
    foundInOrder (a :: b :: rest) = ⟨.ok, .found a true⟩ :: foundInOrder (b :: rest) := by
  simp [foundInOrder]

theorem runInstrs_cons {i : Instr} {s t : State} (h : exec i s = .next t) (is : List Instr) :
    runInstrs (i :: is) s = runInstrs is t := by
  simp only [runInstrs, h]

/-- From a state whose next search is to find `a`, where `a` and then `rest` remain, the searches return them in order,
then `DONE`. -/
theorem runInstrs_search {roms rest : List Address} {a : Address} {s : State} (h : Quiet s) (hbus : OnBus roms s)
    (hd : s.searchLd ≠ 0x00#8) (hn : NextFound roms (comparisonValue s.searchLd) s.searchRom a)
    (hrest : Remaining roms a rest) :
    ∃ t addr more, runInstrs (List.replicate ((a :: rest).length + 1) .search) s = some t ∧
      t.responses = s.responses ++ foundInOrder (a :: rest) ++ [⟨.done, .found addr more⟩] := by
  induction rest generalizing a s with
  | nil =>
    obtain ⟨t, he, _, _, _, hld, hresp⟩ := search_onBus h hbus hd hn hrest.lastFork
    have hdone : t.searchLd = 0x00#8 := BitVec.eq_of_toNat_eq hld
    exact ⟨_, _, _, (runInstrs_cons he _).trans (runInstrs_cons (exec_search_done hdone) _),
      congrArg (· ++ [(⟨.done, freeResult t.draws .found⟩ : Response)]) hresp⟩
  | cons b rest ih =>
    have hb : b ∈ roms := hrest.tail.subset List.mem_cons_self
    obtain ⟨q, hq⟩ := wireBefore_iff.mp hrest.before
    obtain ⟨t, he, hquiet, hbus, hrom, hld, hresp⟩ := search_onBus h hbus hd hn (hq.lastFork hb hrest.neighbours)
    have hnext : NextFound roms (comparisonValue t.searchLd) t.searchRom b := by
      rw [comparisonValue_of_le (hld.trans_le hq.lt), hld, hrom]
      exact hq.nextFound hb hrest.neighbours
    have hnot : t.searchLd ≠ 0x00#8 := fun h0 => nomatch hld.symm.trans (congrArg BitVec.toNat h0)
    obtain ⟨u, addr, more, hrun, hend⟩ := ih hquiet hbus hnot hnext hrest.tail
    refine ⟨u, addr, more, (runInstrs_cons he _).trans hrun, ?_⟩
    rw [hend, hresp, foundInOrder_cons_cons]
    simp

/-- Settles O36: `SEARCH_RESET` makes the first address the one to find, and each search hands on to the next. -/
theorem enumerationVisitsEveryDeviceOnce : Obligations.EnumerationVisitsEveryDeviceOnce := by
  intro s bus order h henv hs hne hperm hsorted
  obtain ⟨a, rest, rfl⟩ := List.exists_cons_of_ne_nil hne
  obtain ⟨hrest, hfirst⟩ := remaining_of_perm (prev := 0#64) hperm hsorted
  exact runInstrs_search (s := respond .ok .none (withSearch 0xFF#8 0#64 s)) h ⟨bus, henv, hs, rfl⟩ (by simp) hfirst
    hrest

/-- With no device on the bus a reset sees no presence (20_memory.md R39). -/
theorem not_allowsAll_resetOk {p : Params} {bus : RefBus} (hs : bus.short = false) (hempty : bus.devices = [])
    (evs : List Event) : ¬ Environment.AllowsAll p (.reference bus) (resetOk ++ evs) := by
  rintro ⟨_, ⟨_, hsample⟩, _⟩
  cases hsample .presence false true rfl
    (by simp [Environment.answerTo, Environment.afterEvent, Environment.afterSample, RefBus.after, RefBus.answer, hs,
      hempty])

/-- Settles O37: one device is the first and the last of its enumeration; with none the reset sees no presence. -/
theorem singleDeviceAndEmptyBus : Obligations.SingleDeviceAndEmptyBus := by
  intro s bus h henv hs hfresh
  have hd : s.searchLd ≠ 0x00#8 := by rw [hfresh]; decide
  refine ⟨fun d hone => ?_, fun hempty => ?_⟩
  · have honly : ∀ r ∈ [d.rom], r = d.rom := fun r => List.mem_singleton.mp
    have hfirst : NextFound [d.rom] (comparisonValue s.searchLd) s.searchRom d.rom := by
      rw [hfresh]
      exact nextFound_of_first List.mem_cons_self fun r hr => .inl (honly r hr)
    obtain ⟨t, he, _, _, hrom, hld, hresp⟩ := search_onBus h ⟨bus, henv, hs, by rw [hone]; rfl⟩ hd hfirst
      (lastFork_of_last fun r hr => .inl (honly r hr))
    exact ⟨t, he, BitVec.eq_of_toNat_eq hld, hrom, hresp⟩
  · obtain ⟨t, he, hcourse⟩ := searchWalksTheTree s h hd
    obtain ⟨evs, addr, more, hfailed, hr, hk⟩ | ⟨_, _, _, _, _, _, hr, _⟩ | ⟨_, _, _, _, hr, _⟩ := hcourse
    · have hallow := hr.allowed
      rw [henv] at hallow
      obtain rfl | rfl := hfailed
      · obtain ⟨⟨_, hsample⟩, _⟩ := hallow
        cases hsample .precheck false true rfl (by simp [Environment.answerTo, RefBus.answer, hs])
      · exact ⟨t, addr, more, he, hk, hr⟩
    · have hallow := hr.allowed
      simp only [henv, List.append_assoc] at hallow
      exact absurd hallow (not_allowsAll_resetOk hs hempty _)
    · have hallow := hr.allowed
      simp only [henv, List.append_assoc] at hallow
      exact absurd hallow (not_allowsAll_resetOk hs hempty _)

end Sys2Proof.Machine
end

section
/-! PROOF. The sensor command protocol on any bus (43_sensor_protocol.md R115 to R121): what each operation does after
its command byte, and with it the whole operation. -/

namespace Sys2Proof.Machine

/-! ### Operations of one command or one slot -/

/-- Settles O38: the addressed operation with no payload. -/
theorem startConversionSendsConvert : Obligations.StartConversionSendsConvert :=
  fun _ target h => ⟨_, guardWindow_quiet _ h.2 _,
    addressed_ran h target 0x44#8 .none (respond .ok .none) _ _ (fun _ => rfl)
      fun _ hu _ => ⟨respond_keepsSearch _ _ _, [], _, respond_ran hu .ok .none, rfl, rfl⟩⟩

/-- Settles O39: one slot, and the response that reads its sample. -/
theorem conversionInProgressReadsOneBit : Obligations.ConversionInProgressReadsOneBit :=
  fun s h => ⟨_, _, guardWindow_quiet true h.2 _, (slot_keepsSearch true s).trans (respond_keepsSearch _ _ _),
    (slot_ran true s).then_respond _ _⟩

/-- Settles O40: the payload is the one slot that the flag is read from. -/
theorem parasitePoweredReadsOneBit : Obligations.ParasitePoweredReadsOneBit :=
  fun _ target h => ⟨_, guardWindow_quiet _ h.2 _,
    addressed_ran h target 0xB4#8 .parasite readPower _ _ (fun _ => ⟨_, rfl⟩)
      fun u _ _ => ⟨(slot_keepsSearch true u).trans (respond_keepsSearch _ _ _), _, _,
        (slot_ran true u).then_respond _ _, _, rfl, rfl⟩⟩

/-- Settles O43: the payload is the named delay. -/
theorem copyScratchpadWaitsItsDelay : Obligations.CopyScratchpadWaitsItsDelay :=
  fun _ target h => ⟨_, guardWindow_quiet _ h.2 _,
    addressed_ran h target 0x48#8 .none (fun u => respond .ok .none (namedDelay .copySettle u)) _ _ (fun _ => rfl)
      fun u hu _ => ⟨(namedDelay_keepsSearch u _).trans (respond_keepsSearch _ _ _), _, _,
        (namedDelay_ran hu .copySettle).then_respond _ _, rfl, rfl⟩⟩

/-! ### Reading nine bytes -/

/-- A scratchpad made of nine bytes has those bytes (30_encoding.md R63). -/
theorem bytes_scratchpadOfBytes {bytes : List Byte} (h : bytes.length = 9) : (scratchpadOfBytes bytes).bytes = bytes :=
  match bytes, h with
  | [_, _, _, _, _, _, _, _, _], _ => rfl

/-- What the nine read bytes are answered with: `OK` and what the caller makes of them, or a failed CRC
(43_sensor_protocol.md R118). -/
def ReadAnswer (kind : ResultKind) (ok : Scratchpad → Result) (sp : Scratchpad) (rs : List Response) : Prop :=
  if crc8 (scratchpadBody sp) = sp.crc then rs = [⟨.ok, ok sp⟩] else ∃ n, rs = [⟨.integrityError, freeResult n kind⟩]

/-- The nine read bytes are a scratchpad, and the response is the answer to it (43_sensor_protocol.md R118). -/
theorem readNine_ran {u : State} (h : Quiet u) (kind : ResultKind) (ok : Scratchpad → Result) :
    KeepsSearch u (readNine kind ok u) ∧ ∃ evs rs, Ran u (readNine kind ok u) evs rs ∧
      ∃ sp, evs = bytesEvents (List.replicate 9 0xFF#8) sp.bytes ∧ ReadAnswer kind ok sp rs := by
  have hr := receiveBytes_ran h 9
  have hk := receiveBytes_keepsSearch 9 u
  rw [← bytes_scratchpadOfBytes (receiveBytes_length 9 u)] at hr
  rw [readNine]
  generalize scratchpadOfBytes (receiveBytes 9 u).2 = sp at hr ⊢
  by_cases hcrc : crc8 (scratchpadBody sp) = sp.crc
  · rw [if_pos hcrc]
    exact ⟨hk.trans (respond_keepsSearch _ _ _), _, _, hr.then_respond _ _, sp, rfl, (if_pos hcrc).mpr rfl⟩
  · rw [if_neg hcrc]
    exact ⟨hk.trans (fail_keepsSearch _ _ _), _, _, hr.then_fail _ _, sp, rfl, (if_neg hcrc).mpr ⟨_, rfl⟩⟩

/-- The addressed read of the nine bytes, the body of `READ_SCRATCHPAD` and of `READ_TEMPERATURE`
(44_temperature_decoder.md R127). -/
theorem addressedRead_ran {s : State} (h : Quiet s) (target : Target) (kind : ResultKind) (ok : Scratchpad → Result) :
    RanAddressed s (addressed target 0xBE#8 kind (readNine kind ok) s) target 0xBE#8
      (fun rs => ∃ n, rs = [⟨.busFault, freeResult n kind⟩])
      (fun payload rs => ∃ sp : Scratchpad, payload = bytesEvents (List.replicate 9 0xFF#8) sp.bytes ∧
        ReadAnswer kind ok sp rs) :=
  addressed_ran h target 0xBE#8 kind (readNine kind ok) _ _ (fun n => ⟨n, rfl⟩) fun _ hu _ => readNine_ran hu kind ok

/-- What an addressed operation's outcomes imply holds of it too. -/
theorem RanAddressed.imp {s t : State} {target : Target} {command : Byte} {failed failed' : List Response → Prop}
    {done done' : List Event → List Response → Prop} (h : RanAddressed s t target command failed done)
    (hfailed : ∀ rs, failed rs → failed' rs) (hdone : ∀ payload rs, done payload rs → done' payload rs) :
    RanAddressed s t target command failed' done' := by
  obtain ⟨hk, ⟨evs, rs, he, hr, hf⟩ | ⟨got, payload, rs, hl, hr, hd⟩⟩ := h
  · exact ⟨hk, .inl ⟨evs, rs, he, hr, hfailed rs hf⟩⟩
  · exact ⟨hk, .inr ⟨got, payload, rs, hl, hr, hdone payload rs hd⟩⟩

/-- Settles O41: the addressed read, with its CRC computed by the bit-serial register. -/
theorem readScratchpadChecksItsCrc : Obligations.ReadScratchpadChecksItsCrc := by
  intro s target h
  refine ⟨_, guardWindow_quiet _ h.2 _, (addressedRead_ran h target .scratchpad .scratchpad).imp ?failed ?done⟩
  case failed => exact fun rs ⟨_, hrs⟩ => ⟨_, hrs⟩
  case done =>
    rintro payload rs ⟨sp, hpayload, hanswer⟩
    refine ⟨sp, hpayload, ?_⟩
    have hbody : (bytesBits (sp.bytes.take 8)).foldl crcSerial 0x00#8 = crc8 (scratchpadBody sp) :=
      (crc8_eq_foldl _).symm
    rw [hbody]
    by_cases hcrc : crc8 (scratchpadBody sp) = sp.crc
    · rw [if_pos hcrc]
      exact (if_pos hcrc).mp hanswer
    · obtain ⟨_, hrs⟩ := (if_neg hcrc).mp hanswer
      rw [if_neg hcrc]
      exact ⟨_, hrs⟩

/-! ### Writing the payload -/

/-- The payload has the configuration byte exactly for an address of a programmable family
(43_sensor_protocol.md R119). -/
theorem takesConfig_iff {p : Params} {target : Target} :
    takesConfig p target = true ↔ ∃ a, target = .address a ∧ p.Prog (Address.byte a 0) := by
  cases target with
  | broadcast => simp [takesConfig]
  | address a => simp [takesConfig]

/-- `WRITE_SCRATCHPAD` sends the bytes of its payload after the command (43_sensor_protocol.md R119). -/
theorem exec_writeScratchpad {s : State} (h : Quiet s) (target : Target) (th tl cfg : Byte) :
    ∃ t, exec (.writeScratchpad target th tl cfg) s = .next t ∧
      RanAddressed s t target 0x4E#8 (fun rs => rs = [⟨.busFault, .none⟩]) (fun payload rs => rs = [⟨.ok, .none⟩] ∧
        ∃ got, got.length = (scratchpadPayload s.cfg target th tl cfg).length ∧
          payload = bytesEvents (scratchpadPayload s.cfg target th tl cfg) got) := by
  refine ⟨_, guardWindow_quiet _ h.2 _, addressed_ran h target 0x4E#8 .none
    (fun u => respond .ok .none (sendBytes (scratchpadPayload s.cfg target th tl cfg) u)) _ _ (fun _ => rfl)
    fun u hu _ => ⟨(sendBytes_keepsSearch _ u).trans (respond_keepsSearch _ _ _), ?_⟩⟩
  obtain ⟨got, hl, hr⟩ := sendBytes_ran hu (scratchpadPayload s.cfg target th tl cfg)
  exact ⟨_, _, hr.then_respond .ok .none, rfl, got, hl, rfl⟩

/-- Settles O42: the payload is of three bytes or of two. -/
theorem writeScratchpadSendsItsBytes : Obligations.WriteScratchpadSendsItsBytes := by
  intro s target th tl cfg h
  obtain ⟨t, he, hr⟩ := exec_writeScratchpad h target th tl cfg
  refine ⟨t, he, hr.imp (fun _ hf => hf) ?_⟩
  rintro payload rs ⟨hrs, got, hl, rfl⟩
  refine ⟨hrs, got, ?_⟩
  rw [ite_prop_iff_or]
  cases hconfig : takesConfig s.cfg target with
  | true =>
    have hbytes : scratchpadPayload s.cfg target th tl cfg = [th, tl, cfg] := if_pos hconfig
    rw [hbytes] at hl ⊢
    exact .inl ⟨takesConfig_iff.mp hconfig, hl, rfl⟩
  | false =>
    have hbytes : scratchpadPayload s.cfg target th tl cfg = [th, tl] := if_neg (by simp [hconfig])
    rw [hbytes] at hl ⊢
    exact .inr ⟨by simp [← takesConfig_iff, hconfig], hl, rfl⟩

/-! ### Polling -/

/-- `k` polls that read 0, each with a delay after it (43_sensor_protocol.md R121). -/
abbrev delayedPolls (k : Nat) : List Event := (List.replicate k [Event.slot true false, .delay .recallPoll]).flatten

/-- `n` polls that read 0 with a delay between each two (43_sensor_protocol.md R121). -/
def busyPolls : Nat → List Event
  | 0 => []
  | n + 1 => delayedPolls n ++ [.slot true false]

/-- The two endings of the poll loop with `n` polls left: completion before the bound, or the bound
(43_sensor_protocol.md R121). -/
def PollsEnd (n : Nat) (evs : List Event) (rs : List Response) : Prop :=
  (∃ k, k < n ∧ rs = [⟨.ok, .none⟩] ∧ evs = delayedPolls k ++ [.slot true true]) ∨
  (rs = [⟨.timeout, .none⟩] ∧ evs = busyPolls n)

/-- A poll that read 0, and a delay, before a loop that has polls left. -/
theorem PollsEnd.after_busy {n : Nat} {evs : List Event} {rs : List Response} (h : PollsEnd (n + 1) evs rs) :
    PollsEnd (n + 2) ([.slot true false, .delay .recallPoll] ++ evs) rs := by
  obtain ⟨k, hk, hrs, rfl⟩ | ⟨hrs, rfl⟩ := h
  · exact .inl ⟨k + 1, Nat.succ_lt_succ hk, hrs, rfl⟩
  · exact .inr ⟨hrs, rfl⟩

/-- The poll loop ends within its bound, whatever the environment answers (43_sensor_protocol.md R121). -/
theorem recallPoll_ran {u : State} (h : Quiet u) (n : Nat) :
    ∃ evs rs, Ran u (recallPoll n u) evs rs ∧ PollsEnd n evs rs := by
  induction n generalizing u with
  | zero => exact ⟨_, _, fail_ran h .timeout .none, .inr ⟨rfl, rfl⟩⟩
  | succ n ih =>
    have hslot := slot_ran true u
    rw [recallPoll]
    cases hread : (slot true u).2 with
    | true =>
      rw [hread] at hslot
      exact ⟨_, _, hslot.then_respond .ok .none, .inl ⟨0, Nat.succ_pos n, rfl, rfl⟩⟩
    | false =>
      rw [hread] at hslot
      cases n with
      | zero => exact ⟨_, _, hslot.then_fail .timeout .none, .inr ⟨rfl, rfl⟩⟩
      | succ n =>
        have hdelayed := hslot.trans (namedDelay_ran hslot.quiet .recallPoll)
        obtain ⟨evs, rs, hr, hend⟩ := ih hdelayed.quiet
        exact ⟨_, _, hdelayed.trans hr, hend.after_busy⟩

/-- `RECALL_EEPROM` with any bound, 0 included (43_sensor_protocol.md R121). -/
theorem exec_recallEeprom {s : State} (h : Quiet s) (target : Target) :
    ∃ t, exec (.recallEeprom target) s = .next t ∧
      RanAddressed s t target 0xB8#8 (fun rs => rs = [⟨.busFault, .none⟩]) (PollsEnd s.cfg.recallMaxPolls) :=
  ⟨_, guardWindow_quiet _ h.2 _, addressed_ran h target 0xB8#8 .none (recallPoll s.cfg.recallMaxPolls) _ _
    (fun _ => rfl)
    fun _ hu _ => ⟨(answered_recallPoll (P := fun _ => True) hu _ trivial trivial).1, recallPoll_ran hu _⟩⟩

/-- Settles O44: the endings of the poll loop, with a bound that is not 0. -/
theorem recallEepromPollsWithinItsBound : Obligations.RecallEepromPollsWithinItsBound := by
  intro s target h hcfg
  obtain ⟨t, he, hr⟩ := exec_recallEeprom h target
  refine ⟨t, he, hr.imp (fun _ hf => hf) fun payload rs hend => ?_⟩
  obtain ⟨n, hn⟩ := Nat.exists_eq_add_one.mpr hcfg.2.2.2
  rw [hn] at hend ⊢
  exact hend

end Sys2Proof.Machine
end

section
/-! PROOF. An addressed operation on the reference bus (20_memory.md R39 to R41): the bits of its bytes bring the bus to
the phase of its command, with the devices of its target selected. -/

namespace Sys2Proof.Machine

/-! ### Bits of several bytes -/

theorem bytesBits_append (as bs : List Byte) : bytesBits (as ++ bs) = bytesBits as ++ bytesBits bs := by
  induction as with
  | nil => rfl
  | cons a as ih => simp only [List.cons_append, bytesBits, ih, List.append_assoc]

/-- Slot `k` of a sequence of bytes carries bit `k mod 8` of byte `k div 8` (20_memory.md R34, R35). -/
theorem bytesBits_getD (bs : List Byte) (k : Nat) :
    (bytesBits bs).getD k false = (bs.getD (k / 8) 0).getLsbD (k % 8) := by
  induction bs generalizing k with
  | nil => simp [bytesBits]
  | cons b bs ih =>
    by_cases hk : k < 8
    · rw [bytesBits, List.getD_append _ _ _ _ (by simpa using hk), Nat.div_eq_of_lt hk, Nat.mod_eq_of_lt hk,
        List.getD_eq_getElem?_getD, byteBits_getElem? b k hk]
      rfl
    · obtain ⟨j, rfl⟩ : ∃ j, k = j + 8 := ⟨k - 8, by omega⟩
      rw [bytesBits, List.getD_append_right _ _ _ _ (by simp), byteBits_length, Nat.add_sub_cancel, ih,
        Nat.add_div_right _ (by decide), Nat.add_mod_right, List.getD_cons_succ]

/-- The bits of the bytes of an address, in wire order, are the address (20_memory.md R35). -/
theorem addressOfBits_addressBytes (a : Address) : addressOfBits (bytesBits (addressBytes a)) = a := by
  refine BitVec.eq_of_getLsbD_eq fun k hk => ?_
  have hbyte : ∀ j, j < 8 → (addressBytes a).getD j 0 = Address.byte a j := by
    intro j hj
    interval_cases j <;> rfl
  rw [addressOfBits_getLsbD _ k hk, bytesBits_getD, hbyte _ (by omega), byte_getLsbD a _ _ (by omega)]
  congr 1
  omega

/-- Bit `k` of a scratchpad is slot `k` of its nine bytes (20_memory.md R35). -/
theorem scratchpadBit_eq (sp : Scratchpad) (k : Nat) : scratchpadBit sp k = (bytesBits sp.bytes).getD k false :=
  (bytesBits_getD sp.bytes k).symm

/-- A scratchpad is its 72 bits (30_encoding.md R63). -/
theorem scratchpad_ext {sp sq : Scratchpad} (h : ∀ k, k < 72 → scratchpadBit sp k = scratchpadBit sq k) : sp = sq := by
  have hbytes : sp.bytes = sq.bytes := by
    refine List.ext_getElem rfl fun j hj hj' => BitVec.eq_of_getLsbD_eq fun i hi => ?_
    rw [scratchpadBytes_length] at hj
    have hbit := h (8 * j + i) (by omega)
    rw [scratchpadBit, scratchpadBit, show (8 * j + i) / 8 = j by omega, show (8 * j + i) % 8 = i by omega] at hbit
    rwa [List.getD_eq_getElem _ _ hj, List.getD_eq_getElem _ _ hj'] at hbit
  exact congrArg scratchpadOfBytes hbytes

/-! ### The reference bus after bits and bytes -/

/-- The reference bus after slots that wrote these bits. -/
def RefBus.afterBits (p : Params) (ws : List Bool) (bus : RefBus) : RefBus :=
  ws.foldl (fun b w => RefBus.slot p w b) bus

theorem RefBus.afterBits_append (p : Params) (vs ws : List Bool) (bus : RefBus) :
    RefBus.afterBits p (vs ++ ws) bus = RefBus.afterBits p ws (RefBus.afterBits p vs bus) :=
  List.foldl_append

/-- The slots of a list move the reference bus on by what they wrote. -/
theorem afterEvents_slots (p : Params) (bus : RefBus) {ws rs : List Bool} (h : rs.length = ws.length) :
    Environment.afterEvents p (.reference bus) (List.zipWith .slot ws rs) = .reference (RefBus.afterBits p ws bus) := by
  induction ws generalizing rs bus with
  | nil => rfl
  | cons w ws ih =>
    cases rs with
    | nil => cases h
    | cons r rs =>
      rw [List.zipWith_cons_cons, Environment.afterEvents, afterEvent_slot]
      exact ih _ (Nat.succ.inj h)

/-- The transfers of bytes move the reference bus on by the bits of the bytes sent. -/
theorem afterEvents_bytes (p : Params) (bus : RefBus) {vs got : List Byte} (h : got.length = vs.length) :
    Environment.afterEvents p (.reference bus) (bytesEvents vs got) =
      .reference (RefBus.afterBits p (bytesBits vs) bus) := by
  induction vs generalizing got bus with
  | nil => rw [bytesEvents_nil]; rfl
  | cons v vs ih =>
    cases got with
    | nil => cases h
    | cons r rs =>
      have hbyte : Environment.afterEvents p (.reference bus) (byteEvents v r) =
          .reference (RefBus.afterBits p (byteBits v) bus) := afterEvents_slots p bus rfl
      rw [bytesEvents, afterEvents_append, hbyte, ih _ (Nat.succ.inj h), bytesBits, RefBus.afterBits_append]

/-! ### Selection -/

/-- A phase that collects bits until it has `n + 1` of them hands all of them on at the last. -/
theorem afterBits_collect {p : Params} {n : Nat} {collecting done : List Bool → RefBus}
    (hmore : ∀ got w, got.length < n → RefBus.slot p w (collecting got) = collecting (got ++ [w]))
    (hlast : ∀ got w, got.length = n → RefBus.slot p w (collecting got) = done (got ++ [w]))
    (ws : List Bool) (w : Bool) (got : List Bool) (h : got.length + ws.length = n) :
    RefBus.afterBits p (w :: ws) (collecting got) = done (got ++ w :: ws) := by
  induction ws generalizing w got with
  | nil => exact hlast got w h
  | cons v ws ih =>
    rw [List.length_cons] at h
    have hrest := ih v (got ++ [w]) (by rw [List.length_append, List.length_singleton]; omega)
    rw [List.append_assoc] at hrest
    rw [RefBus.afterBits, List.foldl_cons, hmore got w (by omega)]
    exact hrest

section
variable (p : Params) (bus : RefBus)

/-- A phase that collects a byte hands the byte on. -/
theorem afterBits_byte {collecting : List Bool → RefBus} {done : Byte → RefBus}
    (hslot : ∀ got w, RefBus.slot p w (collecting got) =
      if got.length < 7 then collecting (got ++ [w]) else done (byteOfBits (got ++ [w]))) (v : Byte) :
    RefBus.afterBits p (byteBits v) (collecting []) = done v := by
  have hcollect := afterBits_collect (n := 7) (done := fun bits => done (byteOfBits bits))
    (fun got w h => (hslot got w).trans (if_pos h)) (fun got w h => (hslot got w).trans (if_neg h.not_lt))
    (byteBits v).tail (v.getLsbD 0) [] rfl
  exact hcollect.trans (congrArg done (byteOfBits_byteBits v))

/-- A byte in the ROM-command phase is a ROM command (20_memory.md R40). -/
theorem afterBits_romCommand (v : Byte) :
    RefBus.afterBits p (byteBits v) { bus with phase := .romCommand [] } = { bus with phase := romPhase v } :=
  afterBits_byte p (collecting := fun got => { bus with phase := .romCommand got })
    (done := fun c => { bus with phase := romPhase c }) (fun _ _ => rfl) v

/-- A byte in the function-command phase is a function command (20_memory.md R41). -/
theorem afterBits_functionCommand (v : Byte) :
    RefBus.afterBits p (byteBits v) { bus with phase := .functionCommand [] } =
      { bus with phase := functionPhase bus v } :=
  afterBits_byte p (collecting := fun got => { bus with phase := .functionCommand got })
    (done := fun c => { bus with phase := functionPhase bus c }) (fun _ _ => rfl) v

/-- A payload byte reaches every device (20_memory.md R41). -/
theorem afterBits_payloadByte (index : Nat) (v : Byte) :
    RefBus.afterBits p (byteBits v) { bus with phase := .writingScratchpad index [] } =
      { bus with
        devices := bus.devices.map (Device.receive p index v)
        phase := .writingScratchpad (index + 1) [] } :=
  afterBits_byte p (collecting := fun got => { bus with phase := .writingScratchpad index got })
    (done := fun c => { bus with
      devices := bus.devices.map (Device.receive p index c), phase := .writingScratchpad (index + 1) [] })
    (fun _ _ => rfl) v

/-- The 64 bits after a match command are an address, and only the devices that have it stay (20_memory.md R40). -/
theorem afterBits_matching (a : Address) :
    RefBus.afterBits p (bytesBits (addressBytes a)) { bus with phase := .matching [] } =
      { bus with devices := keepActive (fun d => d.rom == a) bus.devices, phase := .functionCommand [] } := by
  have hcollect := afterBits_collect (p := p) (n := 63) (collecting := fun got => { bus with phase := .matching got })
    (done := fun bits => { bus with
      devices := keepActive (fun d => d.rom == addressOfBits bits) bus.devices, phase := .functionCommand [] })
    (fun _ _ h => if_pos h) (fun _ _ h => if_neg h.not_lt) (bytesBits (addressBytes a)).tail
    ((Address.byte a 0).getLsbD 0) [] rfl
  have haddress : addressOfBits ([] ++ (Address.byte a 0).getLsbD 0 :: (bytesBits (addressBytes a)).tail) = a :=
    addressOfBits_addressBytes a
  rw [haddress] at hcollect
  exact hcollect

end

/-- Whether a target selects a device: all of them, or by its address (20_memory.md R40). -/
def Target.selects : Target → Device → Bool
  | .broadcast, _ => true
  | .address a, d => d.rom == a

/-- The devices with those of a target selected. -/
def selectDevices (target : Target) (devices : List Device) : List Device :=
  devices.map fun d => { d with active := Target.selects target d }

/-- The reference bus once a target was selected and a function command sent (20_memory.md R40, R41). -/
def commandBus (bus : RefBus) (target : Target) (command : Byte) : RefBus :=
  { bus with devices := selectDevices target bus.devices, phase := functionPhase bus command }

/-- The selection bytes leave the devices of the target selected, ready for a function command (20_memory.md R40). -/
theorem afterBits_selectBytes (p : Params) (bus : RefBus) (target : Target) :
    RefBus.afterBits p (bytesBits (selectBytes target))
        { bus with devices := activateAll bus.devices, phase := .romCommand [] } =
      { bus with devices := selectDevices target bus.devices, phase := .functionCommand [] } := by
  cases target with
  | broadcast =>
    exact afterBits_romCommand p { bus with devices := activateAll bus.devices } 0xCC#8
  | address a =>
    have hmatch := afterBits_romCommand p { bus with devices := activateAll bus.devices } 0x55#8
    rw [selectBytes, bytesBits, RefBus.afterBits_append, hmatch]
    refine (afterBits_matching p { bus with devices := activateAll bus.devices } a).trans ?_
    simp only [selectDevices, activateAll, keepActive, List.map_map]
    rfl

/-- A reset with presence, the selection bytes and a command byte bring the reference bus to the phase of the command,
with the devices of the target selected (20_memory.md R39 to R41). -/
theorem afterEvents_command (p : Params) (bus : RefBus) (target : Target) (command : Byte) {got : List Byte}
    (h : got.length = (selectBytes target).length + 1) :
    Environment.afterEvents p (.reference bus) (resetOk ++ bytesEvents (selectBytes target ++ [command]) got) =
      .reference (commandBus bus target command) := by
  have hreset : Environment.afterEvents p (.reference bus) resetOk =
      .reference { bus with devices := activateAll bus.devices, phase := .romCommand [] } := rfl
  rw [afterEvents_append, hreset, afterEvents_bytes p _ (by rw [h, List.length_append]; rfl), bytesBits_append,
    RefBus.afterBits_append, afterBits_selectBytes, bytesBits, bytesBits, List.append_nil]
  exact congrArg _ (afterBits_functionCommand p { bus with devices := selectDevices target bus.devices } command)

/-- On a reference bus with devices, not shorted, an addressed operation gets past its reset, and its payload and
responses come after the command (20_memory.md R39 to R41). -/
theorem RanAddressed.onBus {s t : State} {target : Target} {command : Byte} {failed : List Response → Prop}
    {done : List Event → List Response → Prop} (h : RanAddressed s t target command failed done) {bus : RefBus}
    (henv : s.env = .reference bus) (hs : bus.short = false) (hne : bus.devices ≠ []) :
    Quiet t ∧ ∃ payload rs, done payload rs ∧ t.responses = s.responses ++ rs ∧
      Environment.AllowsAll s.cfg (.reference (commandBus bus target command)) payload ∧
      t.env = Environment.afterEvents s.cfg (.reference (commandBus bus target command)) payload := by
  have halive : BusAlive s := OnBus.busAlive ⟨bus, henv, hs, rfl⟩ (by simpa using hne)
  obtain ⟨_, ⟨evs, _, hfailed, hr, _⟩ | ⟨got, payload, rs, hl, hr, hd⟩⟩ := h
  · exact absurd hr.allowed (halive.not_allowsAll hfailed)
  · have hafter := afterEvents_command s.cfg bus target command hl
    have hallow := hr.allowed
    rw [henv, allowsAll_append, hafter] at hallow
    refine ⟨hr.quiet, payload, rs, hd, hr.responses, hallow.2, ?_⟩
    rw [hr.env, henv, afterEvents_append, hafter]

/-! ### What the selected devices drive -/

/-- With a broadcast target every device drives (20_memory.md R31). -/
theorem wiredAnd_broadcast (devices : List Device) (f : Device → Bool) :
    wiredAnd (selectDevices .broadcast devices) f = devices.all fun d => f { d with active := true } := by
  simp only [wiredAnd, selectDevices, List.all_map]
  rfl

/-- By the address of one of several devices with distinct addresses only that device drives (20_memory.md R38). -/
theorem wiredAnd_address {devices : List Device} {d : Device} (hmem : d ∈ devices)
    (hnodup : (devices.map Device.rom).Nodup) (f : Device → Bool) :
    wiredAnd (selectDevices (.address d.rom) devices) f = f { d with active := true } := by
  have hsame : ∀ e ∈ devices, e.rom = d.rom → e = d := fun e he hrom => List.inj_on_of_nodup_map hnodup he hmem hrom
  rw [Bool.eq_iff_iff, wiredAnd, selectDevices, List.all_map, List.all_eq_true]
  constructor
  · intro h
    simpa [Target.selects] using h d hmem
  · intro hf e he
    by_cases hrom : e.rom = d.rom
    · obtain rfl := hsame e he hrom
      simpa [Target.selects] using hf
    · simp [Target.selects, hrom]

end Sys2Proof.Machine
end

section
/-! PROOF. The sensor commands on the reference bus (20_memory.md R41): what each phase answers to the slots of its
command, and with it what the operation returns. -/

namespace Sys2Proof.Machine

/-- The first slot of a run on a reference bus that is not shorted, if it is a read slot, gives the answer of the
phase. -/
theorem read_of_allowsAll {p : Params} {bus : RefBus} {r a : Bool} {evs : List Event} (hs : bus.short = false)
    (h : Environment.AllowsAll p (.reference bus) (.slot true r :: evs)) (ha : slotAnswer bus = some a) :
    r = a ∧ Environment.AllowsAll p (.reference (RefBus.slot p true bus)) evs :=
  ⟨eq_of_allows_slot h.1 (by simp only [RefBus.answer, hs, ha]; rfl), h.2⟩

/-! ### The power bit -/

/-- The flag of `PARASITE_POWERED` is what the selected devices drive together (20_memory.md R41). -/
theorem parasitePowered_onBus {s : State} {bus : RefBus} (h : Quiet s) (henv : s.env = .reference bus)
    (hs : bus.short = false) (hne : bus.devices ≠ []) (target : Target) :
    ∃ t, exec (.parasitePowered target) s = .next t ∧ t.responses = s.responses ++
      [⟨.ok, .parasite (!wiredAnd (selectDevices target bus.devices) fun d => !d.parasite)⟩] := by
  obtain ⟨t, he, hran⟩ := parasitePoweredReadsOneBit s target h
  obtain ⟨_, _, _, ⟨r, rfl, rfl⟩, hresp, hallow, _⟩ := hran.onBus henv hs hne
  obtain ⟨rfl, _⟩ := read_of_allowsAll (bus := commandBus bus target 0xB4#8) hs hallow rfl
  exact ⟨t, he, hresp⟩

/-- Settles O49: the slot reads the AND of what the selected devices drive. -/
theorem parasiteFlagIsOfTheSelectedDevices : Obligations.ParasiteFlagIsOfTheSelectedDevices := by
  intro s bus h henv hs hne
  refine ⟨?broadcast, fun d hmem hnodup => ?address⟩
  case broadcast =>
    have hflag := parasitePowered_onBus h henv hs hne .broadcast
    rwa [wiredAnd_broadcast, List.not_all_eq_any_not, funext fun d : Device => Bool.not_not d.parasite] at hflag
  case address =>
    have hflag := parasitePowered_onBus h henv hs hne (.address d.rom)
    rwa [wiredAnd_address hmem hnodup, Bool.not_not] at hflag

/-! ### Reading a scratchpad -/

/-- Reading `n` bytes is the read slots of their bits (43_sensor_protocol.md R118). -/
theorem bytesEvents_read (bytes : List Byte) :
    bytesEvents (List.replicate bytes.length 0xFF#8) bytes = (bytesBits bytes).map (Event.slot true) := by
  induction bytes with
  | nil => rfl
  | cons b bytes ih =>
    rw [List.length_cons, List.replicate_succ, bytesEvents, ih, bytesBits, List.map_append]
    rfl

/-- While a scratchpad is read, slot `k` carries the AND of bit `k` of the selected devices (20_memory.md R41). -/
theorem scratchpad_reads {p : Params} {bus : RefBus} (hs : bus.short = false) {bits : List Bool} {k : Nat}
    (h : Environment.AllowsAll p (.reference { bus with phase := .readingScratchpad k }) (bits.map (Event.slot true)))
    (hk : k + bits.length ≤ 72) {i : Nat} (hi : i < bits.length) :
    bits[i] = wiredAnd bus.devices fun d => scratchpadBit d.sp (k + i) := by
  induction bits generalizing k i with
  | nil => exact absurd hi (Nat.not_lt_zero i)
  | cons b bits ih =>
    rw [List.length_cons] at hk hi
    obtain ⟨hread, hrest⟩ := read_of_allowsAll (bus := { bus with phase := .readingScratchpad k }) hs h rfl
    rw [decide_eq_false (by omega), Bool.false_or] at hread
    cases i with
    | zero => exact hread
    | succ i =>
      rw [List.getElem_cons_succ, ← Nat.add_assoc, Nat.add_right_comm]
      exact ih hrest (by omega) (by omega)

/-- The addressed read on the reference bus: each bit is the AND over the selected devices (20_memory.md R31, R41). -/
theorem addressedRead_onBus {s : State} {bus : RefBus} (h : Quiet s) (henv : s.env = .reference bus)
    (hs : bus.short = false) (hne : bus.devices ≠ []) (target : Target) (kind : ResultKind) (ok : Scratchpad → Result) :
    ∃ sp rs, (∀ k, k < 72 →
        scratchpadBit sp k = wiredAnd (selectDevices target bus.devices) fun d => scratchpadBit d.sp k) ∧
      ReadAnswer kind ok sp rs ∧
      (addressed target 0xBE#8 kind (readNine kind ok) s).responses = s.responses ++ rs := by
  obtain ⟨_, _, rs, ⟨sp, rfl, hanswer⟩, hresp, hallow, _⟩ := (addressedRead_ran h target kind ok).onBus henv hs hne
  rw [← scratchpadBytes_length sp, bytesEvents_read] at hallow
  refine ⟨sp, rs, fun k hk => ?_, hanswer, hresp⟩
  have hlen : k < (bytesBits sp.bytes).length := by rw [bytesBits_length]; exact hk
  have hread := scratchpad_reads (bus := commandBus bus target 0xBE#8) (k := 0) hs hallow (by simp) hlen
  rw [scratchpadBit_eq, List.getD_eq_getElem _ _ hlen, hread, Nat.zero_add]
  rfl

/-- Settles O52: every device is selected. -/
theorem broadcastReadIsTheWiredAnd : Obligations.BroadcastReadIsTheWiredAnd := by
  intro s bus h henv hs hne
  obtain ⟨sp, rs, hbits, hanswer, hresp⟩ := addressedRead_onBus h henv hs hne .broadcast .scratchpad .scratchpad
  refine ⟨_, sp, fun k hk => (hbits k hk).trans (wiredAnd_broadcast _ _), guardWindow_quiet _ h.2 _, ?_⟩
  by_cases hcrc : crc8 (scratchpadBody sp) = sp.crc
  · rw [if_pos hcrc, hresp, (if_pos hcrc).mp hanswer]
  · obtain ⟨n, rfl⟩ := (if_neg hcrc).mp hanswer
    rw [if_neg hcrc, hresp]
    exact ⟨_, rfl⟩

/-- By the address of a device whose scratchpad has its CRC, the read answers with that scratchpad. -/
theorem addressedRead_ofDevice {s : State} {bus : RefBus} {d : Device} (h : Quiet s) (henv : s.env = .reference bus)
    (hs : bus.short = false) (hmem : d ∈ bus.devices) (hnodup : (bus.devices.map Device.rom).Nodup)
    (hcrc : crc8 (scratchpadBody d.sp) = d.sp.crc) (kind : ResultKind) (ok : Scratchpad → Result) :
    (addressed (.address d.rom) 0xBE#8 kind (readNine kind ok) s).responses = s.responses ++ [⟨.ok, ok d.sp⟩] := by
  obtain ⟨sp, rs, hbits, hanswer, hresp⟩ :=
    addressedRead_onBus h henv hs (List.ne_nil_of_mem hmem) (.address d.rom) kind ok
  obtain rfl : sp = d.sp := scratchpad_ext fun k hk => (hbits k hk).trans (wiredAnd_address hmem hnodup _)
  rw [hresp, (if_pos hcrc).mp hanswer]

/-- Settles O50: both operations are the addressed read, with the bytes or their decode in the response. -/
theorem addressedReadReturnsThatDevice : Obligations.AddressedReadReturnsThatDevice := by
  intro s bus d h henv hs hmem hnodup hcrc
  refine ⟨⟨_, guardWindow_quiet _ h.2 _, addressedRead_ofDevice h henv hs hmem hnodup hcrc _ _⟩, fun v hv => ?_⟩
  have hexec : exec (.readTemperature (.address d.rom)) s = guardWindow (resetReaches s) s (addressed
      (.address d.rom) 0xBE#8 .temperature (readNine .temperature fun sp => .temperature (decodeFixed v sp)) s) := by
    simp only [exec, execReadTemperature, hv]
  exact ⟨_, hexec.trans (guardWindow_quiet _ h.2 _), addressedRead_ofDevice h henv hs hmem hnodup hcrc _ _⟩

/-! ### Writing a scratchpad -/

/-- A device after the payload bytes of write-scratchpad, from byte `index` on (20_memory.md R41). -/
def Device.receiveAll (p : Params) : Nat → List Byte → Device → Device
  | _, [], d => d
  | index, v :: vs, d => Device.receiveAll p (index + 1) vs (Device.receive p index v d)

/-- Payload bytes reach every device (20_memory.md R41). -/
theorem afterBits_payload (p : Params) (bus : RefBus) (index : Nat) (vs : List Byte) :
    RefBus.afterBits p (bytesBits vs) { bus with phase := .writingScratchpad index [] } =
      { bus with
        devices := bus.devices.map (Device.receiveAll p index vs)
        phase := .writingScratchpad (index + vs.length) [] } := by
  induction vs generalizing bus index with
  | nil =>
    have hid : Device.receiveAll p index [] = id := rfl
    rw [hid, List.map_id]
    rfl
  | cons v vs ih =>
    have hrest := ih { bus with devices := bus.devices.map (Device.receive p index v) } (index + 1)
    rw [bytesBits, RefBus.afterBits_append, afterBits_payloadByte, hrest, List.map_map, List.length_cons,
      Nat.add_right_comm, Nat.add_assoc]
    rfl

/-- A device that is not selected keeps its scratchpad (20_memory.md R41, log entry 19). -/
theorem receiveAll_inactive (p : Params) (index : Nat) (vs : List Byte) {d : Device} (h : d.active = false) :
    Device.receiveAll p index vs d = d := by
  induction vs generalizing index with
  | nil => rfl
  | cons v vs ih => rw [Device.receiveAll, Device.receive, h]; exact ih _

/-- The scratchpad with another TH, TL and configuration byte, and its CRC. -/
def writtenScratchpad (sp : Scratchpad) (th tl config : Byte) : Scratchpad :=
  { sp with
    th := th, tl := tl, config := config
    crc := crc8 (scratchpadBody { sp with th := th, tl := tl, config := config }) }

/-- A selected device after the payload: the alarm bytes, and the configuration bits if its family is programmable
(20_memory.md R41, R42). -/
theorem receiveAll_payload (p : Params) (th tl cfg : Byte) {d : Device} (h : d.active = true) :
    (Device.receiveAll p 0 (scratchpadPayload p (.address d.rom) th tl cfg) d).sp =
      writtenScratchpad d.sp th tl
        (if p.Prog (Address.byte d.rom 0) then (cfg &&& 0x60#8) ||| 0x1F#8 else d.sp.config) := by
  by_cases hprog : p.Prog (Address.byte d.rom 0)
  · simp [scratchpadPayload, takesConfig, hprog, Device.receiveAll, Device.receive, storePayload, h, writtenScratchpad,
      scratchpadBody]
  · simp [scratchpadPayload, takesConfig, hprog, Device.receiveAll, Device.receive, storePayload, h, writtenScratchpad,
      scratchpadBody]

theorem receiveAll_rom (p : Params) (index : Nat) (vs : List Byte) (d : Device) :
    (Device.receiveAll p index vs d).rom = d.rom := by
  induction vs generalizing index d with
  | nil => rfl
  | cons v vs ih =>
    rw [Device.receiveAll, ih, Device.receive]
    split
    · rfl
    · rfl

/-- Settles O51: each device receives the payload if it is selected, and the selected ones have the address. -/
theorem addressedWriteReachesOnlyThatDevice : Obligations.AddressedWriteReachesOnlyThatDevice := by
  intro s bus d th tl cfg h henv hs hmem _
  obtain ⟨t, he, hran⟩ := exec_writeScratchpad h (.address d.rom) th tl cfg
  obtain ⟨_, _, _, ⟨_, got, hl, rfl⟩, _, _, hend⟩ := hran.onBus henv hs (List.ne_nil_of_mem hmem)
  rw [afterEvents_bytes _ _ hl] at hend
  refine ⟨t, _, he, hend.trans (congrArg _ (afterBits_payload s.cfg (commandBus bus (.address d.rom) 0x4E#8) 0 _)), ?_⟩
  simp only [commandBus, selectDevices, List.map_map]
  refine List.map_congr_left fun e _ => ?_
  simp only [Function.comp, receiveAll_rom]
  refine congrArg (Prod.mk e.rom) ?_
  by_cases hrom : e.rom = d.rom
  · rw [if_pos hrom, ← hrom]
    exact receiveAll_payload s.cfg th tl cfg (d := { e with active := e.rom == e.rom }) (beq_self_eq_true e.rom)
  · rw [if_neg hrom, receiveAll_inactive _ _ _ (beq_false_of_ne hrom)]

/-! ### Polling a recall -/

/-- Reads of 0 and then `r`, while a selected device is busy for `left` more slots: there are at most `left` reads of 0
before, and `r` is 1 when they were all of them (20_memory.md R41). -/
theorem recall_reads {p : Params} {bus : RefBus} (hs : bus.short = false) (hactive : anyActive bus.devices = true)
    {left k : Nat} {r : Bool}
    (h : Environment.AllowsAll p (.reference { bus with phase := .recalling left })
      (delayedPolls k ++ [.slot true r])) :
    k ≤ left ∧ r = decide (left = k) := by
  have hanswer : ∀ n, slotAnswer { bus with phase := .recalling n } = some (decide (n = 0)) := fun n => by
    simp [slotAnswer, hactive]
  induction k generalizing left with
  | zero =>
    obtain ⟨hr, _⟩ := read_of_allowsAll (bus := { bus with phase := .recalling left }) hs h (hanswer left)
    exact ⟨Nat.zero_le left, hr⟩
  | succ k ih =>
    obtain ⟨hbusy, _, hrest⟩ := read_of_allowsAll (bus := { bus with phase := .recalling left }) hs h (hanswer left)
    obtain ⟨m, rfl⟩ : ∃ m, left = m + 1 := Nat.exists_eq_add_one_of_ne_zero (of_decide_eq_false hbusy.symm)
    obtain ⟨hle, hr⟩ := ih (left := m) hrest
    exact ⟨Nat.succ_le_succ hle, by rw [hr]; simp⟩

/-- A device is selected by its own address. -/
theorem anyActive_address {devices : List Device} {d : Device} (hmem : d ∈ devices) :
    anyActive (selectDevices (.address d.rom) devices) = true := by
  simp only [anyActive, selectDevices, List.any_map, List.any_eq_true]
  exact ⟨d, hmem, beq_self_eq_true d.rom⟩

/-- Settles O47: the loop ends with completion exactly if the busy reads are fewer than the polls. -/
theorem recallOfADeviceEndsByItsBusyTime : Obligations.RecallOfADeviceEndsByItsBusyTime := by
  intro s bus d h henv hs hmem
  obtain ⟨t, he, hran⟩ := exec_recallEeprom h (.address d.rom)
  obtain ⟨_, payload, rs, hpolls, hresp, hallow, _⟩ := hran.onBus henv hs (List.ne_nil_of_mem hmem)
  refine ⟨t, he, hresp.trans (congrArg _ ?_)⟩
  have hreads := fun k r => recall_reads (p := s.cfg) (bus := commandBus bus (.address d.rom) 0xB8#8) hs
    (anyActive_address hmem) (left := bus.recallBusy) (k := k) (r := r)
  obtain ⟨k, hk, rfl, rfl⟩ | ⟨rfl, rfl⟩ := hpolls
  · obtain ⟨_, hdone⟩ := hreads k true hallow
    have hleft : bus.recallBusy = k := of_decide_eq_true hdone.symm
    rw [if_pos (hleft.trans_lt hk)]
  · generalize s.cfg.recallMaxPolls = n at hallow ⊢
    cases n with
    | zero => rfl
    | succ n =>
      obtain ⟨hle, hbusy⟩ := hreads n false hallow
      have hleft : bus.recallBusy ≠ n := of_decide_eq_false hbusy.symm
      rw [if_neg (by omega)]

/-! ### Polling a conversion -/

/-- One poll while the selected devices convert (20_memory.md R41). -/
theorem conversionPoll_onBus {s : State} {bus : RefBus} {left : Nat} (h : Quiet s)
    (henv : s.env = .reference { bus with phase := .converting left }) (hs : bus.short = false) :
    ∃ busy t, exec .conversionInProgress s = .next t ∧ Quiet t ∧
      t.env = .reference { bus with phase := .converting (left - 1) } ∧
      t.responses = s.responses ++ [⟨.ok, .busy busy⟩] ∧ ∀ a, busyAnswer left bus.devices = some a → busy = !a := by
  obtain ⟨r, t, he, _, hr⟩ := conversionInProgressReadsOneBit s h
  have hallow := hr.allowed
  rw [henv] at hallow
  refine ⟨!r, t, he, hr.quiet, by rw [hr.env, henv]; rfl, hr.responses, fun a ha => congrArg _ ?_⟩
  exact (read_of_allowsAll (bus := { bus with phase := .converting left }) hs hallow ha).1

/-- While a selected device that is externally powered converts, it holds the line low (20_memory.md R31, R41). -/
theorem busyAnswer_succ {devices : List Device} (h : devices.any (fun d => d.active && !d.parasite) = true)
    (left : Nat) : busyAnswer (left + 1) devices = some false :=
  if_pos ⟨Nat.succ_ne_zero left, h⟩

/-- After the conversion the line is high if no parasite-powered device is selected (20_memory.md R41). -/
theorem busyAnswer_zero {devices : List Device} (h : devices.any (fun d => d.active && d.parasite) = false) :
    busyAnswer 0 devices = some true := by
  simp [busyAnswer, h]

/-- The responses of polls: busy `n` times, and then the last. -/
theorem runInstrs_polls {bus : RefBus} (hs : bus.short = false)
    (hexternal : bus.devices.any (fun d => d.active && !d.parasite) = true) {n : Nat} {s : State} (h : Quiet s)
    (henv : s.env = .reference { bus with phase := .converting n }) :
    ∃ t last, runInstrs (List.replicate (n + 1) .conversionInProgress) s = some t ∧
      t.responses = s.responses ++ List.replicate n ⟨.ok, .busy true⟩ ++ [⟨.ok, .busy last⟩] ∧
      (bus.devices.any (fun d => d.active && d.parasite) = false → last = false) := by
  induction n generalizing s with
  | zero =>
    obtain ⟨last, t, he, _, _, hresp, hbusy⟩ := conversionPoll_onBus h henv hs
    exact ⟨t, last, runInstrs_cons he [], by rw [hresp, List.replicate_zero, List.append_nil],
      fun hnone => hbusy true (busyAnswer_zero hnone)⟩
  | succ n ih =>
    obtain ⟨busy, u, he, hquiet, henv', hresp, hbusy⟩ := conversionPoll_onBus h henv hs
    obtain rfl : busy = true := hbusy false (busyAnswer_succ hexternal n)
    obtain ⟨t, last, hrun, hresp', hlast⟩ := ih hquiet henv'
    refine ⟨t, last, (runInstrs_cons he _).trans hrun, ?_, hlast⟩
    rw [hresp', hresp, List.replicate_succ, List.append_assoc _ [_], List.singleton_append]

/-- Some selected device passes a test on its power exactly if some device of the target does. -/
theorem any_selectDevices (target : Target) (devices : List Device) (f : Bool → Bool) :
    (selectDevices target devices).any (fun d => d.active && f d.parasite) = true ↔
      ∃ d ∈ devices, Target.selects target d = true ∧ f d.parasite = true := by
  simp [selectDevices]

/-- A conversion of a target with an externally powered device is polled busy `CONV_BUSY` times; the next poll answers
not busy if no device of the target is parasite-powered (43_sensor_protocol.md R116, 20_memory.md R41). -/
theorem conversion_onBus {s : State} {bus : RefBus} {target : Target} (h : Quiet s) (henv : s.env = .reference bus)
    (hs : bus.short = false) (hexternal : ∃ d ∈ bus.devices, Target.selects target d = true ∧ d.parasite = false) :
    ∃ t last,
      runInstrs (.startConversion target :: List.replicate (bus.convBusy + 1) .conversionInProgress) s = some t ∧
      t.responses =
        s.responses ++ [⟨.ok, .none⟩] ++ List.replicate bus.convBusy ⟨.ok, .busy true⟩ ++ [⟨.ok, .busy last⟩] ∧
      ((∀ d ∈ bus.devices, Target.selects target d = true → d.parasite = false) → last = false) := by
  obtain ⟨d, hmem, hsel, hpower⟩ := hexternal
  obtain ⟨u, he, hran⟩ := startConversionSendsConvert s target h
  obtain ⟨hquiet, _, _, ⟨rfl, rfl⟩, hresp, _, henv'⟩ := hran.onBus henv hs (List.ne_nil_of_mem hmem)
  obtain ⟨t, last, hrun, hresp', hlast⟩ := runInstrs_polls (bus := commandBus bus target 0x44#8) hs
    ((any_selectDevices target bus.devices (! ·)).mpr ⟨d, hmem, hsel, by rw [hpower]; rfl⟩) hquiet henv'
  refine ⟨t, last, (runInstrs_cons he _).trans hrun, by rw [hresp', hresp], fun hall => hlast ?_⟩
  refine Bool.eq_false_iff.mpr (mt (any_selectDevices target bus.devices id).mp ?_)
  rintro ⟨e, he, hsel, hparasite⟩
  cases (hall e he hsel).symm.trans hparasite

/-- Settles O48: the conversion of every device. -/
theorem conversionPollsAreBusyThenDone : Obligations.ConversionPollsAreBusyThenDone := by
  rintro s bus h henv hs ⟨d, hmem, hpower⟩
  obtain ⟨t, last, hrun, hresp, hlast⟩ := conversion_onBus (target := .broadcast) h henv hs ⟨d, hmem, rfl, hpower⟩
  exact ⟨t, last, hrun, hresp, fun hall => hlast fun e he _ => hall e he⟩

/-- Settles O58: the conversion of the one device that has the address. -/
theorem conversionOfOneDeviceIgnoresTheOthers : Obligations.ConversionOfOneDeviceIgnoresTheOthers := by
  intro s bus d h henv hs hmem hnodup hpower
  obtain ⟨t, last, hrun, hresp, hlast⟩ :=
    conversion_onBus (target := .address d.rom) h henv hs ⟨d, hmem, beq_self_eq_true d.rom, hpower⟩
  have honly : ∀ e ∈ bus.devices, Target.selects (.address d.rom) e = true → e.parasite = false := fun e he hsel =>
    List.inj_on_of_nodup_map hnodup he hmem (eq_of_beq hsel) ▸ hpower
  obtain rfl := hlast honly
  exact ⟨t, hrun, hresp⟩

end Sys2Proof.Machine
end

section
/-! PROOF. The temperature decoder (44_temperature_decoder.md): the Q8.8 result as the count of sixteenths shifted, the
family steps as integer formulas, and `READ_TEMPERATURE` as the read of `READ_SCRATCHPAD` with the decode at its end. -/

namespace Sys2Proof.Machine

/-! ### The fixed-point result -/

/-- An integer count of sixteenths in Q8.8 is sixteen times the count, mod 2^16 (44_temperature_decoder.md R126). -/
theorem toFixed_ofInt (count : Int) : toFixed (BitVec.ofInt 16 count) = BitVec.ofInt 16 (16 * count) := by
  rw [toFixed, BitVec.ofInt_mul, BitVec.ofInt_toInt, ← BitVec.ofInt_mul, Int.mul_comm]

/-- The bits of the Q8.8 result are those of the count, 4 places up (44_temperature_decoder.md R128). -/
theorem toFixed_eq_shiftLeft (raw : Word16) : toFixed raw = raw <<< 4 := by
  rw [toFixed, BitVec.ofInt_mul, BitVec.ofInt_toInt, BitVec.shiftLeft_eq_mul_twoPow]
  rfl

/-- Twelve bits of count, signed, come through unchanged (44_temperature_decoder.md R128). -/
theorem toInt_toFixed {raw : Word16} (hlow : -2048 ≤ raw.toInt) (hhigh : raw.toInt ≤ 2047) :
    (toFixed raw).toInt = 16 * raw.toInt := by
  have hfits : (BitVec.ofInt 16 (raw.toInt * 16)).toInt = raw.toInt * 16 :=
    BitVec.toInt_ofInt_eq_self (by decide) (by omega) (by omega)
  rw [toFixed, hfits, Int.mul_comm]

/-- Settles O55: the decode of every variant ends with the same fixed-point step. -/
theorem fixedPointIsExactInRange : Obligations.FixedPointIsExactInRange :=
  fun _ _ => ⟨toFixed_eq_shiftLeft _, toInt_toFixed⟩

/-! ### Clearing low bits -/

/-- The low bits are cleared by an arithmetic shift right and back (30_encoding.md R64). -/
theorem sshiftRight_shiftLeft {w : Nat} (x : BitVec w) (k : Nat) :
    x.sshiftRight k <<< k = x &&& BitVec.allOnes w <<< k := by
  rw [← BitVec.shiftLeft_ushiftRight]
  ext i hi
  rw [BitVec.getElem_shiftLeft, BitVec.getElem_shiftLeft]
  by_cases hk : i < k
  · simp only [hk, decide_true, Bool.not_true, Bool.false_and]
  · have hback : k + (i - k) < w := by omega
    rw [BitVec.getElem_sshiftRight, dif_pos hback, BitVec.getElem_ushiftRight, BitVec.getLsbD_eq_getElem]

/-- Clearing `k` low bits rounds the signed value toward minus infinity to a multiple of 2^k
(44_temperature_decoder.md R128). -/
theorem and_allOnes_shiftLeft {w : Nat} (x : BitVec w) (k : Nat) :
    x &&& BitVec.allOnes w <<< k = BitVec.ofInt w (2 ^ k * (x.toInt / 2 ^ k)) := by
  have hfloor : BitVec.ofInt w (x.toInt / 2 ^ k) = x.sshiftRight k := by
    rw [← BitVec.ofInt_toInt (x := x.sshiftRight k), BitVec.toInt_sshiftRight, Int.shiftRight_eq_div_pow, Nat.cast_pow]
    rfl
  have hpow : BitVec.ofInt w (2 ^ k) = BitVec.twoPow w k := by
    rw [← BitVec.toNat_inj, BitVec.toNat_twoPow, ← BitVec.toNat_ofNat, ← BitVec.ofInt_natCast, Nat.cast_pow]
    rfl
  rw [BitVec.ofInt_mul, hfloor, hpow, BitVec.mul_comm, ← BitVec.shiftLeft_eq_mul_twoPow, sshiftRight_shiftLeft]

/-- The raw value is the two bytes side by side, byte 1 on top (20_memory.md R36). -/
theorem rawTemperature_eq_append (sp : Scratchpad) : rawTemperature sp = sp.tempMsb ++ sp.tempLsb := by
  rw [rawTemperature, BitVec.append_def, BitVec.shiftLeftZeroExtend_eq, BitVec.setWidth'_eq, BitVec.or_comm]

/-- The raw value as an unsigned number (30_encoding.md R74). -/
theorem toNat_rawTemperature (sp : Scratchpad) :
    (rawTemperature sp).toNat = sp.tempLsb.toNat + 256 * sp.tempMsb.toNat := by
  rw [rawTemperature_eq_append, BitVec.toNat_append, ← Nat.shiftLeft_add_eq_or_of_lt sp.tempLsb.isLt, Nat.shiftLeft_eq]
  omega

/-! ### The decode of a family -/

/-- The mask clears 3, 2, 1 or no low bits (30_encoding.md R64). -/
theorem resolutionMask_resolutionCode (config : Byte) :
    resolutionMask (resolutionCode config) = BitVec.allOnes 16 <<< (3 - config.toNat / 32 % 4) := by
  have hmask : ∀ code : BitVec 2, resolutionMask code = BitVec.allOnes 16 <<< (3 - code.toNat) := by decide
  rw [hmask, resolutionCode, BitVec.extractLsb'_toNat, Nat.shiftRight_eq_div_pow]

/-- The step of the programmable families in integers (44_temperature_decoder.md R126). -/
theorem progRaw_eq (sp : Scratchpad) :
    progRaw sp = BitVec.ofInt 16 (2 ^ (3 - sp.config.toNat / 32 % 4) *
      ((sp.tempMsb ++ sp.tempLsb).toInt / 2 ^ (3 - sp.config.toNat / 32 % 4))) := by
  rw [progRaw, resolutionMask_resolutionCode, and_allOnes_shiftLeft, rawTemperature_eq_append]

/-- The base of family A: the unsigned raw value with its low bit cleared (44_temperature_decoder.md R126). -/
theorem toNat_rawTemperature_and (sp : Scratchpad) :
    (rawTemperature sp &&& 0xFFFE#16).toNat = 2 * ((sp.tempLsb.toNat + 256 * sp.tempMsb.toNat) / 2) := by
  have hmask : 0xFFFE#16 = BitVec.allOnes 16 <<< 1 := by decide
  have hlt := (rawTemperature sp).isLt
  rw [toNat_rawTemperature] at hlt
  rw [hmask, ← BitVec.shiftLeft_ushiftRight, BitVec.toNat_shiftLeft, BitVec.toNat_ushiftRight, toNat_rawTemperature,
    Nat.shiftRight_eq_div_pow, Nat.shiftLeft_eq]
  omega

/-- The step of family A in integers (44_temperature_decoder.md R126). -/
theorem legacyRaw_eq (sp : Scratchpad) :
    legacyRaw sp = BitVec.ofInt 16 (8 * (2 * (((sp.tempLsb.toNat + 256 * sp.tempMsb.toNat) / 2 : Nat) : Int)) +
      ((sp.countPerC.toNat : Int) - (sp.countRemain.toNat : Int)) - 4) := by
  rw [legacyRaw, toNat_rawTemperature_and, Nat.cast_mul, Nat.cast_ofNat, Int.mul_comm 8]

/-- The decode of a family that has a variant (44_temperature_decoder.md R126). -/
theorem exec_decodeTemperature {s : State} {fam : Byte} {v : Variant} (h : variantOf s.cfg fam = some v)
    (sp : Scratchpad) :
    exec (.decodeTemperature fam sp) s = .next (respond .ok (.temperature (decodeFixed v sp)) s) := by
  simp only [exec, execDecodeTemperature, h]

/-- Settles O53: family A has the legacy variant, whose step is the formula. -/
theorem legacyDecodeFormula : Obligations.LegacyDecodeFormula := by
  intro s sp
  rw [exec_decodeTemperature (if_pos rfl), decodeFixed, familyRaw, legacyRaw_eq, toFixed_ofInt]
  rfl

/-- With distinct family codes the families B and C have the programmable variant (44_temperature_decoder.md R125). -/
theorem variantOf_prog {p : Params} {fam : Byte} (hcfg : p.Ok) (h : p.Prog fam) : variantOf p fam = some .prog := by
  obtain ⟨hab, hac, _⟩ := hcfg
  have hlegacy : fam ≠ p.familyA := by
    obtain rfl | rfl := h
    · exact hab.symm
    · exact hac.symm
  rw [variantOf, if_neg hlegacy, if_pos h]

/-- Settles O54: the families B and C have the programmable variant, whose step is the formula. -/
theorem programmableDecodeFormula : Obligations.ProgrammableDecodeFormula := by
  intro s fam sp hcfg hprog
  rw [exec_decodeTemperature (variantOf_prog hcfg hprog), decodeFixed, familyRaw, progRaw_eq, toFixed_ofInt]
  rfl

/-! ### Reading and decoding -/

/-- The addressed read comes to a state that does not depend on what it is read for, and ends there, with a failure or
with what the caller makes of the nine bytes (44_temperature_decoder.md R127). -/
theorem addressedRead_cases {s : State} (h : Quiet s) (target : Target) :
    ∃ u, KeepsSearch s u ∧ u.responses = s.responses ∧
      ((∃ st, st ≠ .ok ∧ ∀ kind ok, addressed target 0xBE#8 kind (readNine kind ok) s = fail st kind u) ∨
       ∃ sp, ∀ kind ok, addressed target 0xBE#8 kind (readNine kind ok) s = respond .ok (ok sp) u) := by
  obtain ⟨hk, ⟨hf, evs, _, hr⟩ | ⟨ht, got, _, hr⟩⟩ := select_cases h target
  · refine ⟨_, hk, by simpa using hr.responses, .inl ⟨.busFault, nofun, fun kind ok => ?_⟩⟩
    simp only [addressed, hf, Bool.false_eq_true, if_false]
  · have hx := hr.trans (xferByte_ran hr.quiet 0xBE#8)
    have hn := hx.trans (receiveBytes_ran hx.quiet 9)
    refine ⟨_, (hk.trans (xferByte_keepsSearch _ _)).trans (receiveBytes_keepsSearch 9 _),
      by simpa using hn.responses, ?_⟩
    simp only [addressed, ht, if_true, readNine]
    split
    · exact .inr ⟨_, fun _ _ => rfl⟩
    · exact .inl ⟨.integrityError, nofun, fun _ _ => rfl⟩

/-- `READ_TEMPERATURE` of an address whose family has a variant (44_temperature_decoder.md R127). -/
theorem exec_readTemperature {s : State} (h : Quiet s) {a : Address} {v : Variant}
    (hv : variantOf s.cfg (Address.byte a 0) = some v) :
    exec (.readTemperature (.address a)) s =
      .next (addressed (.address a) 0xBE#8 .temperature
        (readNine .temperature fun sp => .temperature (decodeFixed v sp)) s) := by
  simp only [exec, execReadTemperature, hv, guardWindow_quiet _ h.2]

/-- Settles O56: both operations are the same addressed read, and end in the state it comes to. -/
theorem readTemperatureIsReadThenDecode : Obligations.ReadTemperatureIsReadThenDecode := by
  intro s a h hknown
  obtain ⟨v, hv⟩ := variantOf_known hknown
  obtain ⟨u, hkeeps, hresp, hends⟩ := addressedRead_cases h (.address a)
  have htemp := exec_readTemperature h hv
  have hread : exec (.readScratchpad (.address a)) s = .next
      (addressed (.address a) 0xBE#8 .scratchpad (readNine .scratchpad .scratchpad) s) := guardWindow_quiet _ h.2 _
  have hanswer : ∀ rs, u.responses ++ rs = s.responses ++ rs := fun rs => congrArg (· ++ rs) hresp
  obtain ⟨st, hst, hfails⟩ | ⟨sp, hreads⟩ := hends
  · rw [hfails] at htemp hread
    exact ⟨_, _, _, htemp, hread, rfl, rfl, hkeeps, hanswer _, fun hok => absurd hok hst, fun _ => ⟨_, hanswer _⟩⟩
  · rw [hreads] at htemp hread
    exact ⟨_, _, _, htemp, hread, rfl, rfl, hkeeps, hanswer _,
      fun _ => ⟨sp, rfl, _, exec_decodeTemperature hv sp, hanswer _⟩, fun hne => absurd rfl hne⟩

end Sys2Proof.Machine
end

section
/-! PROOF. Exceptions (60_exceptions.md): what an instruction opens with, said once for all 29 instructions as `Opening`,
and from it which instructions complete, which enter a critical section, and what they return on a dead bus. -/

namespace Sys2Proof.Machine

/-! ### How an instruction opens -/

/-- What an instruction opens with: a slot or a byte with no reset before it; a reset, with which it fails or goes on;
nothing on the bus, which an operation with a reset does only as a `SEARCH` that is done; or the refusal of its operands
(30_encoding.md R70). -/
inductive Opening (i : Instr) (s : State) : Prop
  | transfer (ho : Instr.opensWithReset i = false) {t : State} (he : exec i s = guardWindow true s t)
  | reset (k : ResultKind) (next : State → State) (he : exec i s = guardWindow (resetReaches s) s
      (if (resetPulse s).2 then next (resetPulse s).1 else fail .busFault k (resetPulse s).1))
  | silent (ho : Instr.opensWithReset i = false ∨ i = .search ∧ s.searchLd = 0x00#8) {t : State}
      (he : exec i s = .next t) (hie : t.ie = s.ie) (hh : t.history = s.history)
  | refused (hops : i.operandsOk s.cfg = false) {why : Refusal} (he : exec i s = .refused why)

/-- A wire command byte is one byte transfer, with no reset before it (30_encoding.md R71). -/
theorem exec_wire {i : Instr} (hw : Instr.isWire i = true) (s : State) :
    Instr.opensWithReset i = false ∧ ∃ byte, exec i s = wireCommand byte s := by
  cases i with
  | wSearch | wMatch | wSkip | wConvert | wWriteScratchpad | wReadScratchpad | wCopyScratchpad | wRecallEeprom
  | wReadPowerSupply => exact ⟨rfl, _, rfl⟩
  | _ => cases hw

/-- An addressed operation opens with a reset (40_bus_transport.md R92, R93). -/
theorem opening_addressed {i : Instr} {s : State} {tg : Target} {command : Byte} {k : ResultKind} {next : State → State}
    (he : exec i s = guardWindow (resetReaches s) s (addressed tg command k next s)) : Opening i s := by
  rw [addressed_eq] at he
  exact .reset k (fun u => next (xferByte command (sendBytes (selectBytes tg) u)).1) he

theorem opening_search (s : State) : Opening .search s := by
  by_cases hd : s.searchLd = 0x00#8
  · exact .silent (.inr ⟨rfl, hd⟩) (exec_search_done hd) rfl rfl
  · exact .reset .found searchRound (if_neg hd)

theorem opening_crc8Check (bytes : List Byte) (s : State) : Opening (.crc8Check bytes) s := by
  cases bytes with
  | nil => exact .refused rfl rfl
  | cons b bs =>
    refine .silent (.inl rfl) rfl ?_ ?_
    · split <;> rfl
    · split <;> rfl

theorem opening_decodeTemperature (fam : Byte) (sp : Scratchpad) (s : State) : Opening (.decodeTemperature fam sp) s := by
  by_cases hk : s.cfg.Known fam
  · obtain ⟨v, hv⟩ := variantOf_known hk
    exact .silent (.inl rfl) (exec_decodeTemperature hv sp) rfl rfl
  · obtain ⟨_, _, hrefused, _⟩ := badOperandsAreRefused s
    exact .refused (decide_eq_false hk) (hrefused fam sp hk)

theorem opening_readTemperature (tg : Target) (s : State) : Opening (.readTemperature tg) s := by
  cases tg with
  | broadcast => exact .refused rfl rfl
  | address a =>
    by_cases hk : s.cfg.Known (Address.byte a 0)
    · obtain ⟨v, he⟩ := execReadTemperature_wellFormed (tg := .address a) (s := s) (decide_eq_true hk)
      exact opening_addressed he
    · obtain ⟨_, _, _, hrefused⟩ := badOperandsAreRefused s
      exact .refused (decide_eq_false hk) (hrefused a hk)

/-- Every instruction, from every state, opens in one of the four ways. -/
theorem exec_opening (i : Instr) (s : State) : Opening i s := by
  by_cases hw : Instr.isWire i = true
  · obtain ⟨ho, _, he⟩ := exec_wire hw s
    exact .transfer ho he
  cases i with
  | writeBit _ | writeByte _ | readBit | readByte | conversionInProgress => exact .transfer rfl rfl
  | busReset => exact .reset .none (respond .ok .none) rfl
  | addressedCommand _ _ | startConversion _ | parasitePowered _ | readScratchpad _ | writeScratchpad _ _ _ _
  | copyScratchpad _ | recallEeprom _ => exact opening_addressed rfl
  | readTemperature tg => exact opening_readTemperature tg s
  | search => exact opening_search s
  | crc8Update _ _ | crc8 _ | searchReset => exact .silent (.inl rfl) rfl rfl rfl
  | crc8Check bytes => exact opening_crc8Check bytes s
  | decodeTemperature fam sp => exact opening_decodeTemperature fam sp s
  | _ => exact absurd rfl hw

/-! ### Completion and statuses -/

/-- The operands of a well-formed instruction are not refused (30_encoding.md R70 items 5 to 7). -/
theorem operandsOk_of_wellFormed {p : Params} {i : Instr} (hw : i.wellFormed p = true) : i.operandsOk p = true :=
  (Bool.and_eq_true_iff.mp hw).2

/-- Settles O11: in a quiet state no opening meets a critical section, and a refusal is of bad operands only. -/
theorem wellFormedInstructionsComplete : Obligations.WellFormedInstructionsComplete := by
  intro i s ⟨_, hfree⟩ hw
  cases exec_opening i s with
  | transfer _ he => exact ⟨_, he.trans (guardWindow_quiet _ hfree _)⟩
  | reset _ _ he => exact ⟨_, he.trans (guardWindow_quiet _ hfree _)⟩
  | silent _ he _ _ => exact ⟨_, he⟩
  | refused hops _ => cases hops.symm.trans (operandsOk_of_wellFormed hw)

/-- Settles O14: the status of a response that the instruction returns is one listed for it. -/
theorem statusesOfEachOperation : Obligations.StatusesOfEachOperation := by
  intro i s t r h he hr
  obtain ⟨_, hstatus⟩ := (exec_completed h he).returns hr
  exact hstatus

/-! ### Inside a critical section -/

/-- From `s` to `t` no timed window was performed, and `IE` was left alone (60_exceptions.md R141). -/
def Windowless (s t : State) : Prop :=
  t.ie = s.ie ∧ ∃ evs, t.history = s.history ++ evs ∧ hasWindow evs = false

/-- `CS_Enter` is refused while `CS_HELD = 1` (60_exceptions.md R141). -/
theorem guardWindow_held {s : State} (h : s.csHeld = true) (t : State) :
    guardWindow true s t = .refused .nestedCriticalSection := by
  simp [guardWindow, h]

/-- An operation that completes while `CS_HELD = 1` does not get as far as a `CS_Enter`. -/
theorem not_reaches_of_held {b : Bool} {s u t : State} (h : s.csHeld = true) (he : guardWindow b s u = .next t) :
    b = false := by
  cases b with
  | false => rfl
  | true => cases (guardWindow_held h u).symm.trans he

/-- A sample, from any state, moves the environment on and may use up a free value, and changes nothing else
(20_memory.md R32). -/
theorem lineSample_frame (k : SampleKind) (s : State) :
    ∃ env n, (lineSample k s).1 = { s with env := env, draws := n } := by
  by_cases hl : s.lineDrv = true
  · exact ⟨s.env, s.draws, by rw [lineSample_driven k hl]⟩
  · obtain ⟨⟨n, hn⟩, _⟩ := envSample_spec k s
    exact ⟨_, n, by rw [lineSample_released k (Bool.eq_false_of_not_eq_true hl), hn]⟩

/-- The pre-check is no timed window, from any state (40_bus_transport.md R85). -/
theorem precheck_windowless (s : State) : Windowless s (precheck s).1 := by
  obtain ⟨env, n, hn⟩ := lineSample_frame .precheck s
  have hp : (precheck s).1 = record (.precheck (precheck s).2) { s with env := env, draws := n } :=
    congrArg (record _) hn
  rw [hp]
  exact ⟨rfl, _, rfl, rfl⟩

/-- A reset whose pre-check reads low ends with the pre-check (40_bus_transport.md R85). -/
theorem resetPulse_of_not_reaches {s : State} (h : resetReaches s = false) :
    resetPulse s = ((precheck s).1, false) := by
  rw [resetReaches] at h
  simp [resetPulse, h]

/-- An instruction that completes from inside a critical section performed no window. -/
theorem exec_windowless {i : Instr} {s t : State} (h : s.csHeld = true) (hnext : exec i s = .next t) :
    Windowless s t := by
  cases exec_opening i s with
  | transfer _ he => cases not_reaches_of_held h (he.symm.trans hnext)
  | reset _ _ he =>
    have hg := he.symm.trans hnext
    obtain rfl := guardWindow_next hg
    rw [resetPulse_of_not_reaches (not_reaches_of_held h hg)]
    exact precheck_windowless s
  | silent _ he hie hh =>
    obtain rfl := Host.Outcome.next.inj (he.symm.trans hnext)
    exact ⟨hie, [], by rw [hh, List.append_nil], rfl⟩
  | refused _ he => cases he.symm.trans hnext

/-- Settles O16: the operations of one slot or byte are stopped at their window, and the others end before one. -/
theorem criticalSectionsDoNotNest : Obligations.CriticalSectionsDoNotNest := by
  refine fun s h => ⟨fun i hi => ?_, fun i t => exec_windowless h⟩
  obtain hw | rfl | ⟨b, rfl⟩ | ⟨v, rfl⟩ | rfl | rfl := hi
  · obtain ⟨_, byte, he⟩ := exec_wire hw s
    exact he.trans (guardWindow_held h _)
  all_goals exact guardWindow_held h _

/-! ### A dead bus -/

/-- On the reference bus the pre-check reads low exactly if the bus is shorted (20_memory.md R39). -/
theorem short_of_allowsAll_precheck {p : Params} {bus : RefBus} {ok : Bool} {evs : List Event}
    (h : Environment.AllowsAll p (.reference bus) (.precheck ok :: evs)) : bus.short = !ok := by
  obtain ⟨⟨_, hsample⟩, _⟩ := h
  have hok : ok = !bus.short := hsample .precheck ok _ rfl rfl
  rw [hok, Bool.not_not]

/-- On a shorted or empty bus the reset fails, by its pre-check or by the presence sample (40_bus_transport.md R85). -/
theorem resetPulse_dead {s : State} {bus : RefBus} (h : Quiet s) (henv : s.env = .reference bus)
    (hdead : bus.short = true ∨ bus.devices = []) :
    (resetPulse s).2 = false ∧
      Ran s (resetPulse s).1 (if bus.short then [.precheck false] else [.precheck true, .reset false]) [] := by
  obtain ⟨_, ⟨hf, evs, hfailed, hr⟩ | ⟨_, hr⟩⟩ := resetPulse_cases h
  · have hallow := hr.allowed
    rw [henv] at hallow
    obtain rfl | rfl := hfailed
    · exact ⟨hf, by simpa [short_of_allowsAll_precheck hallow] using hr⟩
    · exact ⟨hf, by simpa [short_of_allowsAll_precheck hallow] using hr⟩
  · have hallow := hr.allowed
    rw [henv] at hallow
    have hs : bus.short = false := short_of_allowsAll_precheck hallow
    exact absurd hallow (not_allowsAll_resetOk hs (hdead.resolve_left (by simp [hs])) [])

/-- Settles O45: an operation that opens with a reset fails with it, before anything it would have checked later. -/
theorem deadBusGivesBusFault : Obligations.DeadBusGivesBusFault := by
  intro i s bus h henv hdead ho hw hd
  cases exec_opening i s with
  | transfer hn _ => cases hn.symm.trans ho
  | reset k _ he =>
    obtain ⟨hf, hr⟩ := resetPulse_dead h henv hdead
    simp only [hf, Bool.false_eq_true, if_false, guardWindow_quiet _ h.2] at he
    have hfail := hr.then_fail .busFault k
    exact ⟨_, _, he, hfail.responses, rfl, hfail.history⟩
  | silent hs _ _ _ =>
    obtain hn | ⟨hi, hdone⟩ := hs
    · cases hn.symm.trans ho
    · exact absurd hdone (hd hi)
  | refused hops _ => cases hops.symm.trans (operandsOk_of_wellFormed hw)

/-! ### The critical section of a timed window -/

/-- A write-0 slot changes nothing but the environment (20_memory.md R40). -/
theorem envWriteZero_frame (s : State) : ∃ env, envWriteZero s = { s with env := env } := by
  unfold envWriteZero
  split
  · exact ⟨s.env, rfl⟩
  · exact ⟨_, rfl⟩

/-- Settles O17: the windows are the primitives between `CS_Enter` and `CS_Exit`, and the slot and the pulse leave `IE` as
their frames say. -/
theorem slotsSampleInsideACriticalSection : Obligations.SlotsSampleInsideACriticalSection := by
  intro s
  obtain ⟨env, hzero⟩ := envWriteZero_frame (lineRelease (lineDriveLow (csEnter s)))
  have hw : (slotWindow false s).1 = { lineRelease (lineDriveLow (csEnter s)) with env := env } := hzero
  have hpulse := presencePulse_ran s
  rw [hw]
  refine ⟨rfl, rfl, rfl, rfl, rfl, ?slotWindows, rfl, rfl, rfl, fun w => ?slot, ?presenceWindow, hpulse.ie,
    hpulse.csHeld⟩
  case slotWindows =>
    rintro _ rfl
    exact ⟨rfl, rfl, rfl, rfl, rfl, rfl⟩
  case slot =>
    have hslot := slot_ran w s
    exact ⟨rfl, hslot.ie, hslot.csHeld⟩
  case presenceWindow =>
    rintro _ rfl
    exact ⟨rfl, rfl, rfl, rfl, rfl⟩

end Sys2Proof.Machine
end

section
/-! PROOF. Reset and hazards (70_reset_and_hazards.md): what the block does with no instruction, and that the timing
parameters show in no result, said once as `TimingBlind` and carried from the primitives to all 29 instructions. -/

namespace Sys2Proof.Machine

/-! ### Steps without an instruction -/

/-- With no request the block waits (70_reset_and_hazards.md R151). -/
theorem step_eq_self {s : State} (hs : s.inputs = []) : step s = .next s := by
  simp only [step, hs]

/-- A block reset is taken from the queue and done (70_reset_and_hazards.md R151). -/
theorem step_eq_blockReset {s : State} {rest : List Input} (hs : s.inputs = .blockReset :: rest) :
    step s = .next (blockReset (takeInput s)) := by
  simp only [step, hs]

/-- Settles O8: the block reset sets the registers, and the queue's tail is what is left of it. -/
theorem stepWaitsAndResets : Obligations.StepWaitsAndResets := fun _ =>
  ⟨step_eq_self, fun _ hs => ⟨_, step_eq_blockReset hs, rfl, rfl, rfl, rfl, rfl, rfl, rfl, rfl, rfl,
    congrArg List.tail hs⟩⟩

/-! ### Functions that the timing parameters do not reach -/

/-- `f` does not depend on the timing parameters: from a state with other ones its result is the same, up to `m`, which
puts the parameters in the result where it holds a state (70_reset_and_hazards.md R150). -/
def TimingBlind {β : Type} (m : Params → β → β) (f : State → β) : Prop :=
  ∀ (s : State) (p : Params), SameButTiming s.cfg p → f (withCfg p s) = m p (f s)

/-- A value read from the state is the same under other timing parameters. -/
abbrev ReadsNoTiming {γ : Type} (c : State → γ) : Prop := TimingBlind (fun _ a => a) c

/-- A sampling function answers the same and leaves the same state but for the parameters. -/
abbrev SamplesNoTiming {α : Type} (f : State → State × α) : Prop := TimingBlind (fun p => Prod.map (withCfg p) id) f

/-- The outcome with other parameters in its next state, if it has one. -/
def outcomeWithCfg (p : Params) : Host.Outcome State Fault Refusal → Host.Outcome State Fault Refusal
  | .next t => .next (withCfg p t)
  | .fault why => .fault why
  | .refused why => .refused why

namespace TimingBlind

variable {α β γ : Type} {m : Params → β → β}

/-- A function that does not depend on the timing leaves the parameters alone: the case of the state's own. -/
theorem cfg_eq {f : State → State} (hf : TimingBlind withCfg f) (s : State) : (f s).cfg = s.cfg :=
  (congrArg State.cfg (hf s s.cfg ⟨rfl, rfl, rfl, rfl⟩) :)

theorem fst {f : State → State × α} (hf : SamplesNoTiming f) : TimingBlind withCfg fun s => (f s).1 :=
  fun s p h => congrArg Prod.fst (hf s p h)

theorem snd {f : State → State × α} (hf : SamplesNoTiming f) : ReadsNoTiming fun s => (f s).2 :=
  fun s p h => (congrArg Prod.snd (hf s p h) :)

theorem comp {f : State → State} {g : State → β} (hf : TimingBlind withCfg f) (hg : TimingBlind m g) :
    TimingBlind m fun s => g (f s) := by
  intro s p h
  have h' : SameButTiming (f s).cfg p := hf.cfg_eq s ▸ h
  exact (congrArg g (hf s p h)).trans (hg (f s) p h')

/-- What is done may depend on a value read from the state. -/
theorem read {c : State → γ} {f : γ → State → β} (hc : ReadsNoTiming c) (hf : ∀ a, TimingBlind m (f a)) :
    TimingBlind m fun s => f (c s) s := by
  intro s p h
  exact (congrArg (f · (withCfg p s)) (hc s p h)).trans (hf (c s) s p h)

/-- What is done after a sampling function may depend on its sample. -/
theorem bind {f : State → State × α} {g : α → State → β} (hf : SamplesNoTiming f) (hg : ∀ a, TimingBlind m (g a)) :
    TimingBlind m fun s => g (f s).2 (f s).1 :=
  hf.snd.read fun a => hf.fst.comp (hg a)

/-- A branch on a sample. -/
theorem branch {f : State → State × Bool} {g h : State → β} (hf : SamplesNoTiming f) (hg : TimingBlind m g)
    (hh : TimingBlind m h) : TimingBlind m fun s => if (f s).2 then g (f s).1 else h (f s).1 :=
  hf.bind (g := fun b s => if b then g s else h s) fun
    | true => hg
    | false => hh

/-- The refusal of a nested critical section does not depend on the timing (60_exceptions.md R141). -/
theorem guarded {b : State → Bool} {f : State → State} (hb : ReadsNoTiming b) (hf : TimingBlind withCfg f) :
    TimingBlind outcomeWithCfg fun s => guardWindow (b s) s (f s) := by
  intro s p h
  have hbs : b (withCfg p s) = b s := hb s p h
  simp only [guardWindow, hbs, hf s p h]
  split <;> rfl

end TimingBlind

/-! ### The shared operations -/

theorem respond_timingBlind (st : Status) (r : Result) : TimingBlind withCfg (respond st r) := fun _ _ _ => rfl

theorem fail_timingBlind (st : Status) (k : ResultKind) : TimingBlind withCfg (fail st k) := fun _ _ _ => rfl

/-- The event of a named delay carries the parameter's name (20_memory.md R33). -/
theorem namedDelay_timingBlind (t : Timing) : TimingBlind withCfg (namedDelay t) := fun _ _ _ => rfl

/-- Handing on a value that is already known. -/
theorem pair_timingBlind {α : Type} (a : α) : SamplesNoTiming fun s => (s, a) := fun _ _ _ => rfl

theorem slot_timingBlind (w : Bool) : SamplesNoTiming (slot w) := fun _ _ h => slot_timing h w

theorem precheck_timingBlind : SamplesNoTiming precheck := fun _ _ h => precheck_timing h

theorem presencePulse_timingBlind : SamplesNoTiming presencePulse := fun _ _ h => presencePulse_timing h

theorem resetReaches_readsNoTiming : ReadsNoTiming resetReaches := precheck_timingBlind.snd

theorem resetPulse_timingBlind : SamplesNoTiming resetPulse :=
  precheck_timingBlind.branch presencePulse_timingBlind (pair_timingBlind false)

theorem slots_timingBlind (ws : List Bool) : SamplesNoTiming (slots ws) := by
  induction ws with
  | nil => exact pair_timingBlind []
  | cons w ws ih =>
    exact (slot_timingBlind w).bind (g := fun r s => ((slots ws s).1, r :: (slots ws s).2)) fun r =>
      ih.bind fun rs => pair_timingBlind (r :: rs)

theorem xferByte_timingBlind (v : Byte) : SamplesNoTiming (xferByte v) :=
  (slots_timingBlind (byteBits v)).bind fun rs => pair_timingBlind (byteOfBits rs)

theorem sendBytes_timingBlind (bs : List Byte) : TimingBlind withCfg (sendBytes bs) := by
  induction bs with
  | nil => exact fun _ _ _ => rfl
  | cons b bs ih => exact (xferByte_timingBlind b).fst.comp ih

theorem receiveBytes_timingBlind (n : Nat) : SamplesNoTiming (receiveBytes n) := by
  induction n with
  | zero => exact pair_timingBlind []
  | succ n ih =>
    exact (xferByte_timingBlind 0xFF#8).bind (g := fun r s => ((receiveBytes n s).1, r :: (receiveBytes n s).2))
      fun r => ih.bind fun rs => pair_timingBlind (r :: rs)

theorem select_timingBlind (t : Target) : SamplesNoTiming (select t) :=
  resetPulse_timingBlind.branch ((sendBytes_timingBlind (selectBytes t)).comp (pair_timingBlind true))
    (pair_timingBlind false)

theorem addressed_timingBlind (t : Target) (command : Byte) (k : ResultKind) {next : State → State}
    (hn : TimingBlind withCfg next) : TimingBlind withCfg (addressed t command k next) :=
  (select_timingBlind t).branch ((xferByte_timingBlind command).fst.comp hn) (fail_timingBlind .busFault k)

/-! ### What follows the command byte -/

theorem readNine_timingBlind (k : ResultKind) (ok : Scratchpad → Result) : TimingBlind withCfg (readNine k ok) := by
  refine ((receiveBytes_timingBlind 9).bind fun bytes => pair_timingBlind (scratchpadOfBytes bytes)).bind
    (g := fun sp s => if crc8 (scratchpadBody sp) = sp.crc then respond .ok (ok sp) s else fail .integrityError k s)
    fun sp => ?_
  split
  · exact respond_timingBlind .ok (ok sp)
  · exact fail_timingBlind .integrityError k

theorem recallPoll_timingBlind (n : Nat) : TimingBlind withCfg (recallPoll n) := by
  induction n with
  | zero => exact fail_timingBlind .timeout .none
  | succ n ih =>
    have hwait : TimingBlind withCfg fun s => if n = 0 then s else namedDelay .recallPoll s := by
      split
      · exact fun _ _ _ => rfl
      · exact namedDelay_timingBlind .recallPoll
    exact (slot_timingBlind true).branch (respond_timingBlind .ok .none) (hwait.comp ih)

/-- The walk of `SEARCH` chooses by the samples and the search state alone (42_device_search_engine.md R108, R109). -/
theorem searchWalk_timingBlind (n p ldc : Nat) (prev : Address) (lz : Nat) (addr : Address) :
    SamplesNoTiming (searchWalk n p ldc prev lz addr) := by
  induction n generalizing p lz addr with
  | zero => exact pair_timingBlind (some (lz, addr))
  | succ n ih =>
    refine (slot_timingBlind true).bind fun a => (slot_timingBlind true).bind (g := fun b s =>
      match choose p a b ldc prev with
      | none => (s, none)
      | some (d, rec) =>
        searchWalk n (p + 1) ldc prev (if rec then p else lz) (setAddressBit addr p d) (slot d s).1) fun b => ?_
    cases choose p a b ldc prev with
    | none => exact pair_timingBlind none
    | some r => exact (slot_timingBlind r.1).fst.comp (ih _ _ _)

/-- After the walk the search state is recorded, or the search fails (42_device_search_engine.md R109, R110). -/
theorem searchRound_timingBlind : TimingBlind withCfg searchRound := by
  intro s p h
  have hwalk := (xferByte_timingBlind 0xF0#8).fst.comp
    (searchWalk_timingBlind 64 1 (comparisonValue s.searchLd) s.searchRom 0 0#64)
  refine hwalk.bind (g := fun w u =>
    match w with
    | none => fail .protocolDesync .found u
    | some (lz, addr) => respond .ok (.found addr (hasMoreFlag lz)) (withSearch (BitVec.ofNat 8 lz) addr u))
    (fun w => ?_) s p h
  cases w with
  | none => exact fail_timingBlind .protocolDesync .found
  | some _ => exact fun _ _ _ => rfl

/-! ### The instructions -/

theorem variantOf_timing {p q : Params} (h : SameButTiming q p) (fam : Byte) : variantOf p fam = variantOf q fam := by
  obtain ⟨ha, hb, hc, _⟩ := h
  rw [variantOf, variantOf, ha, hb, hc]

theorem scratchpadPayload_timing {p q : Params} (h : SameButTiming q p) (t : Target) (th tl cfg : Byte) :
    scratchpadPayload p t th tl cfg = scratchpadPayload q t th tl cfg := by
  obtain ⟨_, hb, hc, _⟩ := h
  have ht : takesConfig p t = takesConfig q t :=
    Bool.eq_iff_iff.mpr (by simp only [takesConfig_iff, Params.Prog, hb, hc])
  rw [scratchpadPayload, scratchpadPayload, ht]

/-- Every addressed operation, by what it does after its command byte. -/
theorem guardedAddressed_timingBlind (t : Target) (command : Byte) (k : ResultKind) {next : State → State}
    (hn : TimingBlind withCfg next) :
    TimingBlind outcomeWithCfg fun s => guardWindow (resetReaches s) s (addressed t command k next s) :=
  resetReaches_readsNoTiming.guarded (addressed_timingBlind t command k hn)

/-- An operation of one transfer, by what it does after it. -/
theorem guardedTransfer_timingBlind {f : State → State} (hf : TimingBlind withCfg f) :
    TimingBlind outcomeWithCfg fun s => guardWindow true s (f s) :=
  TimingBlind.guarded (b := fun _ => true) (fun _ _ _ => rfl) hf

theorem execBusReset_timingBlind : TimingBlind outcomeWithCfg execBusReset :=
  resetReaches_readsNoTiming.guarded
    (resetPulse_timingBlind.branch (respond_timingBlind .ok .none) (fail_timingBlind .busFault .none))

theorem bitTransfer_timingBlind (b : Bool) : TimingBlind outcomeWithCfg (bitTransfer b) :=
  guardedTransfer_timingBlind ((slot_timingBlind b).bind fun r => respond_timingBlind .ok (.bit r))

theorem byteTransfer_timingBlind (v : Byte) : TimingBlind outcomeWithCfg (byteTransfer v) :=
  guardedTransfer_timingBlind ((xferByte_timingBlind v).bind fun r => respond_timingBlind .ok (.byte r))

theorem readPower_timingBlind : TimingBlind withCfg readPower :=
  (slot_timingBlind true).bind fun r => respond_timingBlind .ok (.parasite (parasiteFlag r))

theorem execCrc8Check_timingBlind (bytes : List Byte) : TimingBlind outcomeWithCfg (execCrc8Check bytes) := by
  intro s p _
  cases bytes with
  | nil => rfl
  | cons b bs =>
    simp only [execCrc8Check]
    split <;> rfl

theorem execSearch_timingBlind : TimingBlind outcomeWithCfg execSearch := by
  intro s p h
  by_cases hd : s.searchLd = 0x00#8
  · exact (exec_search_done (s := withCfg p s) hd).trans (congrArg (outcomeWithCfg p) (exec_search_done hd)).symm
  · simp only [execSearch, hd, if_false]
    exact resetReaches_readsNoTiming.guarded
      (resetPulse_timingBlind.branch searchRound_timingBlind (fail_timingBlind .busFault .found)) s p h

theorem execDecodeTemperature_timingBlind (fam : Byte) (sp : Scratchpad) :
    TimingBlind outcomeWithCfg (execDecodeTemperature fam sp) := by
  intro s p h
  simp only [execDecodeTemperature, variantOf_timing h]
  split <;> rfl

theorem execReadTemperature_timingBlind (t : Target) : TimingBlind outcomeWithCfg (execReadTemperature t) := by
  intro s p h
  cases t with
  | broadcast => rfl
  | address a =>
    simp only [execReadTemperature, variantOf_timing h]
    cases variantOf s.cfg (Address.byte a 0) with
    | none => rfl
    | some v => exact guardedAddressed_timingBlind _ _ _ (readNine_timingBlind _ _) s p h

theorem execWriteScratchpad_timingBlind (t : Target) (th tl cfg : Byte) :
    TimingBlind outcomeWithCfg (execWriteScratchpad t th tl cfg) :=
  TimingBlind.read (c := fun s => scratchpadPayload s.cfg t th tl cfg)
    (f := fun payload s => guardWindow (resetReaches s) s
      (addressed t 0x4E#8 .none (fun u => respond .ok .none (sendBytes payload u)) s))
    (fun _ _ h => scratchpadPayload_timing h t th tl cfg) fun payload =>
    guardedAddressed_timingBlind t 0x4E#8 .none
      ((sendBytes_timingBlind payload).comp (respond_timingBlind .ok .none))

theorem execRecallEeprom_timingBlind (t : Target) : TimingBlind outcomeWithCfg (execRecallEeprom t) :=
  TimingBlind.read (c := fun s => s.cfg.recallMaxPolls)
    (f := fun polls s => guardWindow (resetReaches s) s (addressed t 0xB8#8 .none (recallPoll polls) s))
    (fun _ _ ⟨_, _, _, hpolls⟩ => hpolls.symm) fun polls =>
    guardedAddressed_timingBlind t 0xB8#8 .none (recallPoll_timingBlind polls)

/-- No instruction depends on a timing parameter (70_reset_and_hazards.md R150). -/
theorem exec_timingBlind (i : Instr) : TimingBlind outcomeWithCfg (exec i) := by
  cases i with
  | busReset => exact execBusReset_timingBlind
  | writeBit b => exact bitTransfer_timingBlind b
  | readBit => exact bitTransfer_timingBlind true
  | writeByte v => exact byteTransfer_timingBlind v
  | readByte => exact byteTransfer_timingBlind 0xFF#8
  | addressedCommand _ _ | startConversion _ =>
    exact guardedAddressed_timingBlind _ _ _ (respond_timingBlind .ok .none)
  | crc8Update _ _ | crc8 _ | searchReset => exact fun _ _ _ => rfl
  | crc8Check bytes => exact execCrc8Check_timingBlind bytes
  | search => exact execSearch_timingBlind
  | conversionInProgress =>
    exact guardedTransfer_timingBlind
      ((slot_timingBlind true).bind fun r => respond_timingBlind .ok (.busy (busyFlag r)))
  | parasitePowered _ => exact guardedAddressed_timingBlind _ _ _ readPower_timingBlind
  | readScratchpad _ => exact guardedAddressed_timingBlind _ _ _ (readNine_timingBlind _ _)
  | writeScratchpad t th tl cfg => exact execWriteScratchpad_timingBlind t th tl cfg
  | copyScratchpad _ =>
    exact guardedAddressed_timingBlind _ _ _
      ((namedDelay_timingBlind .copySettle).comp (respond_timingBlind .ok .none))
  | recallEeprom t => exact execRecallEeprom_timingBlind t
  | decodeTemperature fam sp => exact execDecodeTemperature_timingBlind fam sp
  | readTemperature t => exact execReadTemperature_timingBlind t
  | wSearch | wMatch | wSkip | wConvert | wWriteScratchpad | wReadScratchpad | wCopyScratchpad | wRecallEeprom
  | wReadPowerSupply => exact guardedTransfer_timingBlind (xferByte_timingBlind _).fst

/-- Settles O59: the outcome with other timing parameters is the outcome, with those parameters in its state. -/
theorem timingParametersDoNotShow : Obligations.TimingParametersDoNotShow :=
  fun i s p h => ⟨fun _ ht => (exec_timingBlind i s p h).trans (congrArg (outcomeWithCfg p) ht),
    fun _ hwhy => (exec_timingBlind i s p h).trans (congrArg (outcomeWithCfg p) hwhy)⟩

end Sys2Proof.Machine
end
